-- ==== Sys2Proof/Word.lean ====
section
/-! DEFINITION. The widths of the block's values (spec/00_scope.md R5 and R6): bit 0 is the least significant bit. -/

namespace Sys2Proof

/-- The 64-bit operand (W = 64, R5). -/
abbrev Word := BitVec 64

/-- A 16-bit chunk of the operand, which is also a ROM address (L = 16, R5, R50). -/
abbrev Chunk := BitVec 16

/-- One ROM entry (ROM_WIDTH = 16, R5). -/
abbrev Entry := BitVec 16

/-- The result field of a response (RESULT_WIDTH = 16, R5). -/
abbrev Result := BitVec 16

/-- A one-bit register or a parity (R8, R32, R34). -/
abbrev Bit := BitVec 1

/-- The operation select (OP_WIDTH = 2, R5). -/
abbrev Opcode := BitVec 2

/-- One request word `REQ = {op, x}` (R70). -/
abbrev Request := BitVec 66

/-- One response word `RSP = {err, result}` (R72). -/
abbrev ResponseWord := BitVec 17

/-- The 17 bits that hold `build_idx` (R35). -/
abbrev BuildIndex := BitVec 17

end Sys2Proof
end

