-- ==== Sys2Proof/Machine/Bits.lean ====
section
/-! DEFINITION. Population count, parity and widening (spec/00_scope.md R7 and R8). -/

namespace Sys2Proof.Machine

open Sys2Proof

/-- The number of set bits of `v` below position `k`. -/
def popcountBelow {n : Nat} (v : BitVec n) : Nat → Nat
  | 0 => 0
  | k + 1 => popcountBelow v k + (v.getLsbD k).toNat

/-- `popcount(v)`, the number of bits of `v` equal to 1 (R8). -/
def popcount {n : Nat} (v : BitVec n) : Nat := popcountBelow v n

/-- `parity(v) = popcount(v) mod 2` (R8). -/
def parity {n : Nat} (v : BitVec n) : Bit := BitVec.ofNat 1 (popcount v % 2)

/-- `zext_16` of one bit (R7). -/
def zext16 (b : Bit) : Result := b.setWidth 16

/-- `zext_64` of a ROM address (R7), as the build sequencer uses it. -/
def zext64 (a : Chunk) : Word := a.setWidth 64

end Sys2Proof.Machine
end

