-- ==== Sys2Proof/Config.lean ====
section
/-! DEFINITION. What an implementation fixes (spec/00_scope.md R5) and the values the spec leaves open. -/

namespace Sys2Proof

/-- The one parameter that is open (spec/00_scope.md R5, spec/92_eei_decisions.md D8): `true` is a mask ROM,
`false` is a table built after each reset. State holds it and no step writes it, so a statement about every
state holds for both values. -/
structure Config where
  romPreloaded : Bool
  deriving DecidableEq, Repr

/-- The default `ROM_PRELOADED = true` (R5). -/
def Config.standard : Config := { romPreloaded := true }

/-- `ROM_PRELOADED = false` (R5). -/
def Config.buildMode : Config := { romPreloaded := false }

/-- The identity string (R1). -/
def Config.identity : String := "gophersgang-epi/parity_reducer"

/-- W (R5). -/
def Config.wordBits : Nat := 64

/-- L (R5). -/
def Config.chunkBits : Nat := 16

/-- NCHUNK = W / L (R5). -/
def Config.chunkCount : Nat := 4

/-- ROM_DEPTH = 2^L (R5). -/
def Config.romDepth : Nat := 65536

/-- FOLD_SHIFTS (R5, R100). -/
def Config.foldShifts : List Nat := [32, 16, 8, 4, 2, 1]

/-- Free value: `pce_x` after the RESET step numbered by the argument (R39, U2; log entry 4). -/
opaque Config.pceXAfterReset : Nat → Word

/-- Free value: `pce_acc` after a RESET step (R39, U2; log entry 4). -/
opaque Config.pceAccAfterReset : Nat → Bit

/-- Free value: `rsp_result_q` after a RESET step (R39, U2; log entry 4). -/
opaque Config.rspResultAfterReset : Nat → Result

/-- Free value: `rsp_err_q` after a RESET step (R39, U2; log entry 4). -/
opaque Config.rspErrAfterReset : Nat → Bit

/-- Free value: the entry at an address that the build has not written since the RESET step numbered by the
first argument, with `ROM_PRELOADED = false` (R39, U4; log entry 8). -/
opaque Config.romUnbuilt : Nat → Chunk → Entry

end Sys2Proof
end

