-- ==== Sys2Proof/Machine/State.lean ====
section
/-! DEFINITION. The state of the block (spec/10_state.md R24, R30 to R37) as plain data, and the state after reset. -/

namespace Sys2Proof.Machine

open Sys2Proof

/-- The control state (R30). Its binary encoding cannot be observed and is not specified. -/
inductive Phase where
  | build
  | idle
  | altLoop
  | resp
  deriving DecidableEq, Repr

/-- The levels of the input ports in one step (R24). -/
structure Inputs where
  rst : Bool
  reqValid : Bool
  reqOp : Opcode
  reqX : Word
  rspReady : Bool
  deriving DecidableEq, Repr

/-- A host and a platform that do nothing: no reset, no request offered, no response taken. -/
def Inputs.quiet : Inputs :=
  { rst := false, reqValid := false, reqOp := 0, reqX := 0, rspReady := false }

/-- One response, as the host receives it (spec/30_encoding.md R72). -/
structure Response where
  err : Bit
  result : Result
  deriving DecidableEq, Repr

/-- The levels of the output ports (R25). The response ports carry no value while `rspValid` is low (R26). -/
structure Outputs where
  reqReady : Bool
  rspValid : Bool
  response : Option Response
  initDone : Bool
  deriving DecidableEq, Repr

/-- The entries of the ROM that the build has written, each at its address, addresses strictly rising. The unit is
the 16-bit entry, since the ROM has no smaller one (spec/20_memory.md R50; log entry 9). -/
abbrev RomCells := List (Nat × Entry)

/-- The state of the block (R30 to R37), with the model's own fields `epoch`, `inputs` and `received`. -/
structure State where
  /-- `ROM_PRELOADED` (spec/00_scope.md R5); no step writes it. -/
  config : Config
  /-- R30. -/
  phase : Phase
  /-- `pce_x` (R31). -/
  pceX : Word
  /-- `pce_acc` (R32). -/
  pceAcc : Bit
  /-- `rsp_result_q` (R33). -/
  rspResultQ : Result
  /-- `rsp_err_q` (R34). -/
  rspErrQ : Bit
  /-- `build_idx` (R35). -/
  buildIdx : BuildIndex
  /-- `rom` (R36) with `ROM_PRELOADED = false`: what the build has written since the last RESET. -/
  rom : RomCells
  /-- `fault` (R37), the spec's own model flag. -/
  fault : Bool
  /-- The model's own: how many RESET steps there have been; it selects the free values (log entry 4). -/
  epoch : Nat
  /-- The model's own: the input ports at this step and at the steps after it (R176; log entry 2). -/
  inputs : List Inputs
  /-- The model's own: the responses the host has received, oldest first (spec/43_transactions.md R178; log entry 12). -/
  received : List Response
  deriving DecidableEq, Repr

/-- The reasons a step can stop with a fault: none. "No component has failure conditions" (spec/60_exceptions.md R200),
and the one error, ReservedOp, completes with a response and sets the flag `State.fault` (R202; log entry 10). -/
inductive Fault where
  deriving DecidableEq, Repr

/-- The reasons a step can be refused. -/
inductive Refusal where
  /-- Raised by an arm of `exec` whose instruction has no meaning in the model. No arm raises it: safe. -/
  | notModelled (mnemonic : String)
  deriving DecidableEq, Repr

/-- The state after reset of a block built with `c` (R39, spec/70_reset_and_hazards.md R221, R223). The data registers
have no reset value in the spec; the zeros here are log entry 3 (DESIGN CHOICE), and `buildIdx` with a preloaded
ROM is log entry 5 (DESIGN CHOICE). -/
def State.resetFor (c : Config) : State :=
  { config := c
    phase := match c.romPreloaded with
      | true => .idle
      | false => .build
    pceX := 0
    pceAcc := 0
    rspResultQ := 0
    rspErrQ := 0
    buildIdx := 0
    rom := []
    fault := false
    epoch := 0
    inputs := []
    received := [] }

/-- The machine right after reset, with the default `ROM_PRELOADED = true` (R5; log entry 6). -/
def State.reset : State := State.resetFor Config.standard

end Sys2Proof.Machine
end

