-- ==== Sys2Proof/Machine/Memory.lean ====
section
/-! DEFINITION. The ROM as a list of written entries in canonical form (spec/20_memory.md R50 to R53). -/

namespace Sys2Proof.Machine

open Sys2Proof

/-- The entry the Parity Lookup Table holds at an address (R53). -/
def tableEntry (a : Chunk) : Entry := zext16 (parity a)

/-- What an entry that the list does not name reads as, with `ROM_PRELOADED = false`: unspecified (spec/10_state.md
R39, U4), so a free value (log entry 8). -/
def Memory.unlisted (epoch : Nat) (a : Chunk) : Entry := Config.romUnbuilt epoch a

/-- The entry listed at an address, if one is. -/
def Memory.lookup : RomCells → Nat → Option Entry
  | [], _ => none
  | (k, v) :: rest, a => if k = a then some v else Memory.lookup rest a

/-- The entry at an address. Every 16-bit address is valid (R51). -/
def Memory.read (epoch : Nat) (m : RomCells) (a : Chunk) : Entry :=
  (Memory.lookup m a.toNat).getD (Memory.unlisted epoch a)

/-- The list without the entry at an address. -/
def Memory.erase (m : RomCells) (a : Nat) : RomCells := m.filter (fun c => c.1 != a)

/-- The list with an entry put in at its place in the rising order. -/
def Memory.insert : RomCells → Nat → Entry → RomCells
  | [], a, v => [(a, v)]
  | (k, w) :: rest, a, v => if a < k then (a, v) :: (k, w) :: rest else (k, w) :: Memory.insert rest a v

/-- Writing one whole entry (R52). An entry equal to what its address reads as unlisted is not listed. -/
def Memory.write (epoch : Nat) (m : RomCells) (a : Chunk) (v : Entry) : RomCells :=
  if v = Memory.unlisted epoch a then Memory.erase m a.toNat
  else Memory.insert (Memory.erase m a.toNat) a.toNat v

/-- The canonical form: addresses strictly rising and inside the ROM, and no entry equal to what its address reads
as unlisted. -/
def Memory.wf (epoch : Nat) (m : RomCells) : Bool :=
  decide (m.Pairwise (fun c d => c.1 < d.1)) &&
  m.all (fun c => c.1 < Config.romDepth && c.2 != Memory.unlisted epoch (BitVec.ofNat 16 c.1))

end Sys2Proof.Machine
end

