-- ==== Sys2Proof/Syntax.lean ====
section
/-! DEFINITION. The operations of spec/30_encoding.md R71, one constructor per row of spec/opcode_table.json. -/

namespace Sys2Proof

/-- A decoded request (R71, R75). Every operand is the whole unsigned 64-bit field `REQ[63:0]` (R73). -/
inductive Instr where
  /-- `PARITY x`, op 0b00: bitwise-fold parity (spec/40_fold.md R101). -/
  | parity (x : Word)
  /-- `PARITY_ALT x`, op 0b01: bit-clearing parity (spec/41_bitclear.md R121). -/
  | parityAlt (x : Word)
  /-- `PARITY_LOOKUP x`, op 0b10: table-lookup parity (spec/42_lookup.md R143). -/
  | parityLookup (x : Word)
  /-- The reserved op 0b11 (spec/60_exceptions.md R202). The 64 bits are kept, so that a request word and its
  decoded form determine each other, and ignored by the meaning (R74; log entry 11, DESIGN CHOICE). -/
  | reserved (x : Word)
  deriving DecidableEq, Repr

end Sys2Proof
end

