-- ==== Sys2Proof/WellFormed.lean ====
section
/-! DEFINITION. What must hold of a number before it is a request word or an operand, and of a request. -/

namespace Sys2Proof

/-- A number is a request word when it fits the 66 bits of the one format (spec/30_encoding.md R70). -/
def isRequestNumber (w : Nat) : Bool := w < 2 ^ 66

/-- A literal of the host script is an operand when it is below 2^64 (R76). -/
def isOperandLiteral (x : Nat) : Bool := x < 2 ^ 64

/-- Every operand of every operation is valid: "No value of x is illegal" (R74), and the reserved op is accepted
with any x. So the check holds of each constructor; the type of the operand carries the only bound. -/
def Instr.wellFormed (i : Instr) : Bool :=
  match i with
  | .parity _ => true
  | .parityAlt _ => true
  | .parityLookup _ => true
  | .reserved _ => true

end Sys2Proof
end

