-- ==== Sys2Proof/Decode.lean ====
section
/-! DEFINITION. Decoding and encoding of request words (spec/30_encoding.md R70, R71, R75). -/

namespace Sys2Proof

/-- `REQ[65:64]`, the operation select (R70). -/
def opField (req : Request) : Opcode := req.extractLsb' 64 2

/-- `REQ[63:0]`, the operand (R70, R73). -/
def operandField (req : Request) : Word := req.extractLsb' 0 64

/-- `REQ = {op, x}` (R70). -/
def requestWord (op : Opcode) (x : Word) : Request := op ++ x

/-- Decoding is total and has exactly the four arms of R75, chosen by `REQ[65:64]` alone. -/
def decode (req : Request) : Instr :=
  match (opField req).toFin with
  | 0 => .parity (operandField req)
  | 1 => .parityAlt (operandField req)
  | 2 => .parityLookup (operandField req)
  | 3 => .reserved (operandField req)

/-- The operation select of each operation (R71). -/
def Instr.op (i : Instr) : Opcode :=
  match i with
  | .parity _ => 0b00#2
  | .parityAlt _ => 0b01#2
  | .parityLookup _ => 0b10#2
  | .reserved _ => 0b11#2

/-- The operand field of each operation (R73). -/
def Instr.operand (i : Instr) : Word :=
  match i with
  | .parity x => x
  | .parityAlt x => x
  | .parityLookup x => x
  | .reserved x => x

/-- The request word of an operation (R70, R71). -/
def encode (i : Instr) : Request := requestWord i.op i.operand

/-- Why a number is not decoded. -/
inductive DecodeError where
  /-- The number does not fit the 66 bits of a request word (R70). -/
  | notARequestWord
  deriving DecidableEq, Repr

/-- Decoding of any number, refusing by name one that is no request word (R70). -/
def decodeNumber (w : Nat) : Except DecodeError Instr :=
  if isRequestNumber w then .ok (decode (BitVec.ofNat 66 w)) else .error .notARequestWord

/-- The table's numbering: bit 0 is `REQ[0]`, and a row of 66 bits stands in whole bytes, with the bits above
bit 65 zero. There is no memory to lay the word out in (spec/20_memory.md R54, R61); the number is the
request word itself (log entry 16). -/
def decodeTableWord (nbits w : Nat) : Option Instr :=
  match decodeNumber (w % 2 ^ nbits) with
  | .ok i => some i
  | .error _ => none

end Sys2Proof
end

