-- ==== Sys2Proof/Machine/Operands.lean ====
section
/-! DEFINITION. Operand assembly (spec/30_encoding.md R73): the chunks of the operand, and the request on the port. -/

namespace Sys2Proof.Machine

open Sys2Proof

/-- `chunk_k(x) = x[16k+15 : 16k]` (spec/00_scope.md R9, spec/42_lookup.md R140). -/
def chunk (k : Nat) (x : Word) : Chunk := x.extractLsb' (Config.chunkBits * k) Config.chunkBits

/-- The request word that the host presents on `req_op` and `req_x` (R70). -/
def Inputs.request (p : Inputs) : Request := requestWord p.reqOp p.reqX

/-- The operation that the sampled request stands for (R75; spec/43_transactions.md R171, R174). -/
def Inputs.instr (p : Inputs) : Instr := decode p.request

/-- Port levels that offer a request word (R70; spec/43_transactions.md R171). -/
def Inputs.offering (req : Request) : Inputs :=
  { Inputs.quiet with reqValid := true, reqOp := opField req, reqX := operandField req }

/-- Port levels that take a response (spec/43_transactions.md R172). -/
def Inputs.taking : Inputs := { Inputs.quiet with rspReady := true }

/-- Port levels that assert reset (spec/70_reset_and_hazards.md R220). -/
def Inputs.resetting : Inputs := { Inputs.quiet with rst := true }

end Sys2Proof.Machine
end

