-- ==== Sys2Proof/Machine/Ops.lean ====
section
/-! DEFINITION. The shared operations over the registers and the ROM: accepting a request, answering it, the error
response, RESET and CONSUME. -/

namespace Sys2Proof.Machine

open Sys2Proof

/-- `RomRead(a)` (spec/20_memory.md R51). With a preloaded ROM its content is the constant of R53 (R52, spec/42_lookup.md
R153; log entry 7). -/
def romRead (s : State) (a : Chunk) : Entry :=
  match s.config.romPreloaded with
  | true => tableEntry a
  | false => Memory.read s.epoch s.rom a

/-- `RomWrite(a, v)` (spec/20_memory.md R52). -/
def romWrite (s : State) (a : Chunk) (v : Entry) : State :=
  { s with rom := Memory.write s.epoch s.rom a v }

/-- An operation completes: the response registers are written together and the response is held (spec/10_state.md
R30, R33, R34). -/
def State.respond (s : State) (err : Bit) (result : Result) : State :=
  { s with rspResultQ := result, rspErrQ := err, phase := .resp }

/-- PCE is loaded with an operand and starts its loop (spec/41_bitclear.md R121). -/
def State.startPce (s : State) (x : Word) : State :=
  { s with pceX := x, pceAcc := 0, phase := .altLoop }

/-- ReservedOp, the block's only error (spec/60_exceptions.md R201, R202). There is no trap entry and no return from
one: nothing is saved, no mode changes, nothing is redirected (R205, R206). The response carries the error and
the model's `fault` is set. -/
def State.raiseReservedOp (s : State) : State :=
  { s.respond 1 0 with fault := true }

/-- ACCEPT needs `phase = IDLE`; at any other time no request transfers and the offered values have no effect on any
state (spec/43_transactions.md R171, R176; log entry 1). -/
def accept (s : State) (after : State) : Host.Outcome State Fault Refusal :=
  match s.phase with
  | .idle => .next after
  | .build => .next s
  | .altLoop => .next s
  | .resp => .next s

/-- The response word on the response port, `RSP = {err, result}` (spec/30_encoding.md R72). -/
def Response.word (r : Response) : ResponseWord := r.err ++ r.result

/-- CONSUME: the host receives the response and the block returns to IDLE (spec/43_transactions.md R172). -/
def State.consume (s : State) : State :=
  { s with phase := .idle, received := s.received ++ [{ err := s.rspErrQ, result := s.rspResultQ }] }

/-- RESET (spec/70_reset_and_hazards.md R221, R222; spec/10_state.md R39). `phase` is set, and `build_idx` in build mode.
The four data registers hold no value the spec defines (U2), so each holds a free value (log entry 4); in
build mode so does every ROM entry (U4; log entry 8). `fault` and a preloaded ROM are unchanged. -/
def State.resetStep (s : State) : State :=
  let s' : State :=
    { s with
      epoch := s.epoch + 1
      pceX := Config.pceXAfterReset (s.epoch + 1)
      pceAcc := Config.pceAccAfterReset (s.epoch + 1)
      rspResultQ := Config.rspResultAfterReset (s.epoch + 1)
      rspErrQ := Config.rspErrAfterReset (s.epoch + 1) }
  match s.config.romPreloaded with
  | true => { s' with phase := .idle }
  | false => { s' with phase := .build, buildIdx := 0, rom := [] }

/-- The levels of the input ports in this step; past the end of the schedule nothing is driven (R176; log entry 2). -/
def State.ports (s : State) : Inputs := s.inputs.headD Inputs.quiet

/-- The schedule moves on by one step. -/
def State.advance (s : State) : State := { s with inputs := s.inputs.tail }

end Sys2Proof.Machine
end

