-- ==== Sys2Proof/Machine/BitClear.lean ====
section
/-! DEFINITION. PCE, the bit-clearing engine, and PARITY_ALT (spec/41_bitclear.md). -/

namespace Sys2Proof.Machine

open Sys2Proof

/-- `v & (v - 1)`, which clears the lowest set bit of a `v` that is not 0 (R122, R123). -/
def clearLowest (v : Word) : Word := v &&& (v - 1)

/-- ACCEPT of `PARITY_ALT x` (R121). -/
def execParityAlt (x : Word) (s : State) : Host.Outcome State Fault Refusal :=
  accept s (s.startPce x)

/-- ALT_STEP (R122): one set bit is cleared and the accumulator inverted, or the loop completes. -/
def altStep (s : State) : State :=
  if s.pceX ≠ 0 then { s with pceAcc := s.pceAcc ^^^ 1, pceX := clearLowest s.pceX }
  else s.respond 0 (zext16 s.pceAcc)

end Sys2Proof.Machine
end

