-- ==== Sys2Proof/Machine/Fold.lean ====
section
/-! DEFINITION. The FOLD datapath and PARITY (spec/40_fold.md). -/

namespace Sys2Proof.Machine

open Sys2Proof

/-- One stage: the value XOR its own logical right shift, at 64 bits (R100). -/
def foldStage (v : Word) (shift : Nat) : Word := v ^^^ (v >>> shift)

/-- The stage value `s_j` of R100: `s_0 = x`, and each stage uses the next shift of FOLD_SHIFTS. -/
def foldAfter (j : Nat) (x : Word) : Word := (Config.foldShifts.take j).foldl foldStage x

/-- `Fold(x) = s_6[0]` (R100). -/
def fold (x : Word) : Bit := (foldAfter 6 x).extractLsb' 0 1

/-- ACCEPT of `PARITY x` (R101). -/
def execParity (x : Word) (s : State) : Host.Outcome State Fault Refusal :=
  accept s (s.respond 0 (zext16 (fold x)))

end Sys2Proof.Machine
end

