-- ==== Sys2Proof/Machine/Lookup.lean ====
section
/-! DEFINITION. LMUX, PARITY_LOOKUP and the build sequencer (spec/42_lookup.md). -/

namespace Sys2Proof.Machine

open Sys2Proof

/-- `Lookup(x)`: the 16-bit XOR of the ROM entries of the four chunks, unmasked (R140, R142). -/
def lookup (s : State) (x : Word) : Result :=
  romRead s (chunk 3 x) ^^^ romRead s (chunk 2 x) ^^^ romRead s (chunk 1 x) ^^^ romRead s (chunk 0 x)

/-- ACCEPT of `PARITY_LOOKUP x` (R143). -/
def execParityLookup (x : Word) (s : State) : Host.Outcome State Fault Refusal :=
  accept s (s.respond 0 (lookup s x))

/-- The address the build sequencer writes next, `build_idx[15:0]` (R150). -/
def buildAddress (s : State) : Chunk := s.buildIdx.extractLsb' 0 16

/-- BUILD_STEP (R150): the entry at the build index is written with the fold of the index, and the last one ends the
build. Outside 0..65535, which no run reaches in BUILD, the index wraps as the pseudocode reads (log entry 17). -/
def buildStep (s : State) : State :=
  let written := romWrite s (buildAddress s) (zext16 (fold (zext64 (buildAddress s))))
  { written with
    phase := if s.buildIdx = 65535 then .idle else s.phase
    buildIdx := s.buildIdx + 1 }

end Sys2Proof.Machine
end

