-- ==== Sys2Proof/Machine/Reserved.lean ====
section
/-! DEFINITION. The reserved operation value (spec/60_exceptions.md R202). -/

namespace Sys2Proof.Machine

open Sys2Proof

/-- ACCEPT of a request with `op = 0b11`: the error response. Its operand is ignored (spec/30_encoding.md R74). -/
def execReserved (_x : Word) (s : State) : Host.Outcome State Fault Refusal :=
  accept s s.raiseReservedOp

end Sys2Proof.Machine
end

