-- ==== Sys2Proof/Machine/Dispatch.lean ====
section
/-! DEFINITION. ACCEPT dispatch (spec/43_transactions.md R174): one arm per operation. -/

namespace Sys2Proof.Machine

open Sys2Proof

def exec (i : Instr) (s : State) : Host.Outcome State Fault Refusal :=
  match i with
  | .parity x => Sys2Proof.Machine.execParity x s
  | .parityAlt x => Sys2Proof.Machine.execParityAlt x s
  | .parityLookup x => Sys2Proof.Machine.execParityLookup x s
  | .reserved x => Sys2Proof.Machine.execReserved x s

end Sys2Proof.Machine
end

