-- ==== Sys2Proof/Machine/Events.lean ====
section
/-! DEFINITION. Which step of the step relation is enabled (spec/43_transactions.md R176). -/

namespace Sys2Proof.Machine

open Sys2Proof

/-- The steps of R176, and waiting, when none is enabled. -/
inductive Event where
  | reset
  | buildStep
  | accept (i : Instr)
  | altStep
  | consume
  | wait
  deriving DecidableEq, Repr

/-- The one step enabled by the port levels and the state (R176). RESET has precedence (R204, R220); the enabling
conditions of the others need different phases. An enabled internal step is taken at once (R177; log entry 18). -/
def enabledEvent (p : Inputs) (s : State) : Event :=
  if p.rst then .reset
  else
    match s.phase with
    | .build => .buildStep
    | .idle => if p.reqValid then .accept p.instr else .wait
    | .altLoop => .altStep
    | .resp => if p.rspReady then .consume else .wait

/-- The effect of a step other than ACCEPT. While the block waits, nothing changes (R172, R176; log entry 13). -/
def State.internal (s : State) (e : Event) : State :=
  match e with
  | .reset => s.resetStep
  | .buildStep => buildStep s
  | .accept _ => s
  | .altStep => altStep s
  | .consume => s.consume
  | .wait => s

/-- `s` with a request placed on the request port of the very next step: the ports of this step offer `req` with reset
released, and the block is ready. The response ports and the rest of the schedule stay as they are
(log entry 14). -/
def State.offerRequest (s : State) (req : Request) : State :=
  { s with
    phase := .idle
    inputs := { s.ports with rst := false, reqValid := true, reqOp := opField req, reqX := operandField req }
      :: s.inputs.tail }

end Sys2Proof.Machine
end

