-- ==== Sys2Proof/Machine/Flags.lean ====
section
/-! DEFINITION. The block has no flags and no condition codes (spec/10_state.md R22). All that the host sees of its
status are the output ports, functions of the state (R23, R25, R26). -/

namespace Sys2Proof.Machine

open Sys2Proof

/-- `req_ready`: `phase = IDLE` and `rst = 0` (R25). -/
def reqReady (p : Inputs) (s : State) : Bool := s.phase == .idle && !p.rst

/-- `rsp_valid`: `phase = RESP` (R25). -/
def rspValid (s : State) : Bool := s.phase == .resp

/-- `init_done`: `phase` is not `BUILD` (R25). -/
def initDone (s : State) : Bool := s.phase != .build

/-- `{rsp_err, rsp_result}`: the response registers while `rsp_valid = 1`, and no value otherwise (R25, R26, U3). -/
def rspPort (s : State) : Option Response :=
  if rspValid s then some { err := s.rspErrQ, result := s.rspResultQ } else none

/-- All output ports (R25). -/
def outputs (p : Inputs) (s : State) : Outputs :=
  { reqReady := reqReady p s, rspValid := rspValid s, response := rspPort s, initDone := initDone s }

end Sys2Proof.Machine
end

