-- ==== Sys2Proof/Machine/Step.lean ====
section
/-! DEFINITION. The step relation as one function (spec/43_transactions.md R176). -/

namespace Sys2Proof.Machine

open Sys2Proof

/-- One step: the port levels of this step are read, the schedule moves on, and the one enabled step happens. A request
that transfers is decoded and executed (R174). -/
def step (s : State) : Host.Outcome State Fault Refusal :=
  match enabledEvent s.ports s with
  | .accept i => exec i s.advance
  | e => .next (s.advance.internal e)

/-- `s` with an instruction where the next step takes it: offered on the request port, with the block ready to accept
(log entry 14). The word is numbered as spec/opcode_table.json numbers it. -/
def State.withFetchWord (s : State) (nbits w : Nat) : State :=
  s.offerRequest (BitVec.ofNat 66 (w % 2 ^ nbits))

end Sys2Proof.Machine
end

