-- ==== Sys2Proof/Machine/Script.lean ====
section
/-! DEFINITION. The host-script notation (spec/30_encoding.md R76 and R77): its lines, their text, their encoding, and
the host that carries one out. -/

namespace Sys2Proof.Machine

open Sys2Proof

/-- A line of a host script (R76). Each mnemonic is exactly one request word (R77). -/
inductive ScriptLine where
  | transaction (i : Instr)
  | reset
  | comment
  deriving DecidableEq, Repr

/-- Why a text line is not a line of a script. -/
inductive ScriptError where
  /-- The first word is none of the mnemonics of R76. -/
  | unknownMnemonic
  /-- The line does not have the operands its mnemonic takes. -/
  | wrongOperands
  /-- The operand is not a literal in `0x` hexadecimal or in decimal. -/
  | notALiteral
  /-- The operand is not below 2^64. -/
  | operandTooLarge
  deriving DecidableEq, Repr

/-- The sixteen hexadecimal digits. -/
def hexChars : List Char :=
  ['0', '1', '2', '3', '4', '5', '6', '7', '8', '9', 'A', 'B', 'C', 'D', 'E', 'F']

/-- The value of a digit; the hexadecimal letters are read in both cases (log entry 19). -/
def digitValue (c : Char) : Option Nat :=
  if '0' ≤ c ∧ c ≤ '9' then some (c.toNat - 48)
  else if 'A' ≤ c ∧ c ≤ 'F' then some (c.toNat - 55)
  else if 'a' ≤ c ∧ c ≤ 'f' then some (c.toNat - 87)
  else none

/-- A numeral in a base, most significant digit first, continuing from a value. -/
def numeralFrom (base : Nat) : Nat → List Char → Option Nat
  | value, [] => some value
  | value, c :: rest =>
    match digitValue c with
    | some d => if d < base then numeralFrom base (value * base + d) rest else none
    | none => none

/-- A numeral of at least one digit. -/
def numeral (base : Nat) (text : List Char) : Option Nat :=
  match text with
  | [] => none
  | c :: rest => numeralFrom base 0 (c :: rest)

/-- `<x>`: a literal in `0x` hexadecimal or decimal, below 2^64 (R76). -/
def parseOperand (text : List Char) : Except ScriptError Word :=
  let value := match text with
    | '0' :: 'x' :: digits => numeral 16 digits
    | digits => numeral 10 digits
  match value with
  | none => .error .notALiteral
  | some n => if isOperandLiteral n then .ok (BitVec.ofNat 64 n) else .error .operandTooLarge

/-- The mnemonics of R76 with the operation each selects; they are case-sensitive. -/
def mnemonicOp (text : List Char) : Option Opcode :=
  if text = ['P', 'A', 'R', 'I', 'T', 'Y'] then some 0b00
  else if text = ['P', 'A', 'R', 'I', 'T', 'Y', '_', 'A', 'L', 'T'] then some 0b01
  else if text = ['P', 'A', 'R', 'I', 'T', 'Y', '_', 'L', 'O', 'O', 'K', 'U', 'P'] then some 0b10
  else if text = ['R', 'E', 'S', 'E', 'R', 'V', 'E', 'D'] then some 0b11
  else none

/-- The words of a text, separated by spaces and tabs; some may be empty. -/
def splitWords : List Char → List (List Char)
  | [] => [[]]
  | c :: rest =>
    match c == ' ' || c == '\t', splitWords rest with
    | true, ws => [] :: ws
    | false, w :: ws => (c :: w) :: ws
    | false, [] => [[c]]

/-- One line of a script (R76). What follows a semicolon is a comment, as the programs of spec/95_test_vectors.md
section 3 write it; a line of nothing else is a comment line (log entry 19). -/
def parseLine (text : List Char) : Except ScriptError ScriptLine :=
  match (splitWords (text.takeWhile (fun c => c != ';'))).filter (fun w => !w.isEmpty) with
  | [] => .ok .comment
  | m :: operands =>
    if m = ['R', 'E', 'S', 'E', 'T'] then
      match operands with
      | [] => .ok .reset
      | _ :: _ => .error .wrongOperands
    else
      match mnemonicOp m, operands with
      | none, _ => .error .unknownMnemonic
      | some op, [x] =>
        match parseOperand x with
        | .ok v => .ok (.transaction (decode (requestWord op v)))
        | .error e => .error e
      | some _, [] => .error .wrongOperands
      | some _, _ :: _ :: _ => .error .wrongOperands

/-- `k` hexadecimal digits of a number, most significant first. -/
def hexDigits : Nat → Nat → List Nat
  | 0, _ => []
  | k + 1, n => hexDigits k (n / 16) ++ [n % 16]

/-- The 17 hexadecimal digits of a request word: the operation select, then the 16 digits of the operand (R76). -/
def requestDigits (req : Request) : List Nat := hexDigits 17 req.toNat

/-- A request word as text: the first digit, an underscore, and the 16 digits of the operand (R76). -/
def requestText (req : Request) : List Char :=
  match (requestDigits req).map (fun d => hexChars.getD d '0') with
  | [] => []
  | op :: digits => op :: '_' :: digits

/-- The state with the port levels of the next step given, and nothing scheduled after it. -/
def State.withPorts (s : State) (p : Inputs) : State := { s with inputs := [p] }

/-- The host offers a request, unchanged, in every step until one in which `req_ready = 1`: that step is ACCEPT (R76,
spec/43_transactions.md R171, R179). The first argument bounds the wait. -/
def awaitAccept : Nat → Inputs → State → Host.Outcome State Fault Refusal
  | 0, _, s => .next s
  | k + 1, p, s =>
    match step (s.withPorts p) with
    | .next t => if reqReady p s then .next t else awaitAccept k p t
    | stop => stop

/-- The host holds `rsp_ready` until a step in which `rsp_valid = 1`: that step is CONSUME (R76,
spec/43_transactions.md R172). The first argument bounds the wait. -/
def awaitConsume : Nat → State → Host.Outcome State Fault Refusal
  | 0, s => .next s
  | k + 1, s =>
    match step (s.withPorts Inputs.taking) with
    | .next t => if rspValid s then .next t else awaitConsume k t
    | stop => stop

/-- One line carried out: a wait, an ACCEPT, a wait and a CONSUME; or one RESET step; or nothing (R76, R77;
log entry 15). -/
def runLine (bound : Nat) (l : ScriptLine) (s : State) : Host.Outcome State Fault Refusal :=
  match l with
  | .transaction i =>
    match awaitAccept bound (Inputs.offering (encode i)) s with
    | .next t => awaitConsume bound t
    | stop => stop
  | .reset => step (s.withPorts Inputs.resetting)
  | .comment => .next s

/-- The lines of a script in order. -/
def runScript (bound : Nat) : List ScriptLine → State → Host.Outcome State Fault Refusal
  | [], s => .next s
  | l :: rest, s =>
    match runLine bound l s with
    | .next t => runScript bound rest t
    | stop => stop

end Sys2Proof.Machine
end

