-- ==== Sys2Proof/Safety.lean ====
section
/-! DEFINITION. The terms in which statements speak of runs: the premise "no fault", the invariant of the reachable states,
which registers hold a value, the host's duties, and what each request is answered with. -/

namespace Sys2Proof.Machine

open Sys2Proof

/-- `k` steps, stopping at a fault or a refusal. -/
def run : Nat → State → Host.Outcome State Fault Refusal
  | 0, s => .next s
  | k + 1, s =>
    match step s with
    | .next t => run k t
    | .fault r => .fault r
    | .refused r => .refused r

/-- The premise of a claim about a run: no reserved request was performed (spec/10_state.md R37). -/
def State.noFault (s : State) : Prop := s.fault = false

/-- A start state of a run (spec/70_reset_and_hazards.md R223, spec/10_state.md R39): what RESET produces in a block built
with `c`, with the data registers and the schedule left open. -/
structure State.IsStart (c : Config) (s : State) : Prop where
  config : s.config = c
  phase : s.phase = (State.resetFor c).phase
  buildIdx : c.romPreloaded = false → s.buildIdx = 0
  rom : s.rom = []
  fault : s.fault = false
  received : s.received = []

/-- The states of the runs from a start state, under every behaviour of host and platform. -/
inductive Reachable (c : Config) : State → Prop where
  | start (s : State) : s.IsStart c → Reachable c s
  | step (s t : State) : Reachable c s → step s = .next t → Reachable c t

/-- Every ROM entry holds the parity of its address (spec/20_memory.md R53). -/
def State.RomComplete (s : State) : Prop := ∀ a : Chunk, romRead s a = tableEntry a

/-- The entries below an index hold the parity of their address. -/
def State.RomBuiltBelow (s : State) (k : Nat) : Prop := ∀ a : Chunk, a.toNat < k → romRead s a = tableEntry a

/-- What a response can be (spec/30_encoding.md R72): a parity without error, or the error with result 0. -/
def Response.Legal (r : Response) : Prop :=
  (r.err = 0 ∧ (r.result = 0 ∨ r.result = 1)) ∨ (r.err = 1 ∧ r.result = 0)

/-- The invariant of the block. -/
structure State.Inv (s : State) : Prop where
  /-- The list of written entries keeps its canonical form. -/
  romForm : Memory.wf s.epoch s.rom = true
  /-- A mask ROM is never written, and there is no BUILD phase (spec/42_lookup.md R153, spec/20_memory.md R52). -/
  preloaded : s.config.romPreloaded = true → s.rom = [] ∧ s.phase ≠ .build
  /-- During BUILD the index is an address, and the entries below it are built (spec/42_lookup.md R150, R151). -/
  building : s.phase = .build → s.buildIdx.toNat < Config.romDepth ∧ s.RomBuiltBelow s.buildIdx.toNat
  /-- `build_idx` stays in 0..65536 (spec/10_state.md R35). -/
  idxRange : s.config.romPreloaded = false → s.buildIdx.toNat ≤ Config.romDepth
  /-- Outside BUILD the table is complete (spec/20_memory.md R53). -/
  built : s.phase ≠ .build → s.RomComplete
  /-- The response on the port is a legal one (spec/30_encoding.md R72). -/
  response : s.phase = .resp → Response.Legal { err := s.rspErrQ, result := s.rspResultQ }
  /-- So is every response the host has received. -/
  received : ∀ r ∈ s.received, r.Legal

/-- Two states agree on all that holds a value: they may differ in the registers and entries that no step has written since
reset or that no step reads in this phase (spec/10_state.md R38, R31, R32, R35), and in the free-value counter. -/
structure State.LiveEq (s t : State) : Prop where
  config : s.config = t.config
  phase : s.phase = t.phase
  fault : s.fault = t.fault
  inputs : s.inputs = t.inputs
  received : s.received = t.received
  pce : s.phase = .altLoop → s.pceX = t.pceX ∧ s.pceAcc = t.pceAcc
  response : s.phase = .resp → s.rspResultQ = t.rspResultQ ∧ s.rspErrQ = t.rspErrQ
  buildIdx : s.phase = .build → s.buildIdx = t.buildIdx
  building : s.phase = .build → ∀ a : Chunk, a.toNat < s.buildIdx.toNat → romRead s a = romRead t a
  built : s.phase ≠ .build → ∀ a : Chunk, romRead s a = romRead t a

/-- What each request is answered with (spec/43_transactions.md R180, spec/60_exceptions.md R202). -/
def answer (i : Instr) : Response :=
  match i with
  | .parity x => { err := 0, result := zext16 (parity x) }
  | .parityAlt x => { err := 0, result := zext16 (parity x) }
  | .parityLookup x => { err := 0, result := zext16 (parity x) }
  | .reserved _ => { err := 1, result := 0 }

/-- Whether the request is the reserved one, which sets `fault` (spec/60_exceptions.md R202). -/
def isReserved (i : Instr) : Bool :=
  match i with
  | .parity _ => false
  | .parityAlt _ => false
  | .parityLookup _ => false
  | .reserved _ => true

/-- The block's own steps between ACCEPT and `rsp_valid = 1` (spec/70_reset_and_hazards.md R232). -/
def blockSteps (i : Instr) : Nat :=
  match i with
  | .parity _ => 0
  | .parityAlt x => popcount x + 1
  | .parityLookup _ => 0
  | .reserved _ => 0

/-- The BUILD_STEPs that remain before the block is ready (spec/42_lookup.md R151): none outside BUILD. -/
def buildStepsLeft (s : State) : Nat :=
  match s.phase with
  | .build => Config.romDepth - s.buildIdx.toNat
  | .idle => 0
  | .altLoop => 0
  | .resp => 0

/-- The host's duty of R171 and R179 in a step of a run: a request offered and not accepted is offered unchanged in the next
step. -/
def State.hostHoldsRequest (s : State) : Prop :=
  s.ports.reqValid = true → reqReady s.ports s = false →
    s.advance.ports.reqValid = true ∧ s.advance.ports.request = s.ports.request

/-- The end of a run (spec/43_transactions.md R178): the schedule is over, so `rst = 0`, and the block is idle, so the
response of every accepted request that no reset abandoned has been consumed. -/
def State.runEnded (s : State) : Prop := s.inputs = [] ∧ s.phase = .idle

/-- The observation of a run (R178): the responses in order, and `fault`. -/
def State.observation (s : State) : List Response × Bool := (s.received, s.fault)

end Sys2Proof.Machine
end

