-- ==== Sys2Proof/Certificates/Slice0/Obligations.lean ====
section
/-! DEFINITION. The statements for the provers, one definition each; each docstring names the rule of spec/ it formalises. -/

open Sys2Proof Sys2Proof.Machine

/-! ### Requests and their encoding -/

/-- spec/30_encoding.md R75: the four arms of decoding, chosen by `REQ[65:64]` alone, and every request word is one of the
four. What the reserved arm keeps of x is the model's choice (log entry 11) and is not stated here. -/
def Obligations.DecodeHasFourArms : Prop :=
  (∀ x : Word,
    decode (requestWord 0b00#2 x) = .parity x ∧
    decode (requestWord 0b01#2 x) = .parityAlt x ∧
    decode (requestWord 0b10#2 x) = .parityLookup x ∧
    (∃ y, decode (requestWord 0b11#2 x) = .reserved y)) ∧
  ∀ req : Request, ∃ (op : Opcode) (x : Word), req = requestWord op x ∧
    (op = 0b00#2 ∨ op = 0b01#2 ∨ op = 0b10#2 ∨ op = 0b11#2)

/-- Decode and encode agree in both directions, for every operation with every operand and for every request word; and
the table's numbering of a word reads as the same operation. For the reserved op this includes the 64 bits that the model keeps
(log entry 11, DESIGN CHOICE). The last two clauses are about the model's reading of a table number, and the last holds because the
model refuses a number with a bit above bit 65 (log entry 16, DESIGN CHOICE). -/
def Obligations.DecodeEncodeAgree : Prop :=
  (∀ i : Instr, i.wellFormed = true → decode (encode i) = i) ∧
  (∀ req : Request, encode (decode req) = req) ∧
  (∀ i : Instr, i.wellFormed = true → decodeTableWord 72 (encode i).toNat = some i) ∧
  (∀ (w : Nat) (i : Instr), decodeTableWord 72 w = some i → (encode i).toNat = w % 2 ^ 72)

/-- A request word has 66 bits (spec/30_encoding.md R70). The spec says nothing of a wider number: that the model refuses it, by
name, is the model's choice (log entry 16, DESIGN CHOICE). -/
def Obligations.NumberRefusedExactlyWhenTooWide : Prop :=
  ∀ w : Nat,
    (w < 2 ^ 66 → decodeNumber w = .ok (decode (BitVec.ofNat 66 w))) ∧
    (2 ^ 66 ≤ w → decodeNumber w = .error .notARequestWord)

/-- The vectors VE1 to VE4, VE6, VE7 and VE8 of spec/95_test_vectors.md section 2.5: one word of each operation, written out. -/
def Obligations.VectorsDecode : Prop :=
  decode 0x00000000000000007#66 = .parity 0x7 ∧
  decode 0x10000000000000007#66 = .parityAlt 0x7 ∧
  decode 0x20000000000000007#66 = .parityLookup 0x7 ∧
  (∃ y, decode 0x30000000000000007#66 = .reserved y) ∧
  decode 0x0FFFFFFFFFFFFFFFF#66 = .parity 0xFFFFFFFFFFFFFFFF ∧
  decode 0x2FFFFFFFFFFFFFFFF#66 = .parityLookup 0xFFFFFFFFFFFFFFFF ∧
  decode 0x18000000000000000#66 = .parityAlt 0x8000000000000000

/-- spec/30_encoding.md R72: the fields of the response word, RSP[16] = err and RSP[15:0] = result. -/
def Obligations.ResponseWordFields : Prop :=
  ∀ r : Response, r.word.extractLsb' 16 1 = r.err ∧ r.word.extractLsb' 0 16 = r.result

/-- spec/30_encoding.md R76: the 17 hexadecimal digits of a request word spell it, most significant digit first, and the
first digit is `op`. -/
def Obligations.RequestDigitsSpellTheWord : Prop :=
  ∀ req : Request,
    (requestDigits req).length = 17 ∧
    (requestDigits req).foldl (fun n d => n * 16 + d) 0 = req.toNat ∧
    (requestDigits req).head? = some (opField req).toNat ∧
    ∀ d ∈ requestDigits req, d < 16

/-- The example of R76: `PARITY_LOOKUP 0x7` encodes as `2_0000000000000007`; and an operand of 2^64 is refused. -/
def Obligations.ScriptLineExample : Prop :=
  parseLine ['P', 'A', 'R', 'I', 'T', 'Y', '_', 'L', 'O', 'O', 'K', 'U', 'P', ' ', '0', 'x', '7'] =
    .ok (.transaction (.parityLookup 0x7)) ∧
  requestText (encode (.parityLookup 0x7)) =
    ['2', '_', '0', '0', '0', '0', '0', '0', '0', '0', '0', '0', '0', '0', '0', '0', '0', '7'] ∧
  parseOperand ['0', 'x', '1', '0', '0', '0', '0', '0', '0', '0', '0', '0', '0', '0', '0', '0', '0', '0', '0'] =
    .error .operandTooLarge

/-! ### The step -/

/-- When a request transfers, the step is the decoded operation, on the state whose schedule has moved on by one step
(spec/43_transactions.md R171, R174, R176). -/
def Obligations.StepRunsTheDecodedRequest : Prop :=
  ∀ s : State, s.ports.rst = false → s.phase = .idle → s.ports.reqValid = true →
    step s = exec (decode (requestWord s.ports.reqOp s.ports.reqX)) s.advance

/-- The very next step after an instruction is placed on the request port runs exactly it. How a word is placed is the
model's (log entry 14). -/
def Obligations.FetchWordRunsNext : Prop :=
  ∀ (s : State) (nbits w : Nat) (i : Instr), decodeTableWord nbits w = some i →
    step (s.withFetchWord nbits w) = exec i { s with phase := .idle, inputs := s.inputs.tail }

/-- spec/43_transactions.md R176: the one step that each enabling condition gives. That a waiting block spends an entry of
the schedule is the model's (log entry 13). -/
def Obligations.StepFollowsTheRelation : Prop :=
  ∀ s : State,
    (s.ports.rst = true → step s = .next s.advance.resetStep) ∧
    (s.ports.rst = false → s.phase = .build → step s = .next (buildStep s.advance)) ∧
    (s.ports.rst = false → s.phase = .idle → s.ports.reqValid = true → step s = exec s.ports.instr s.advance) ∧
    (s.ports.rst = false → s.phase = .idle → s.ports.reqValid = false → step s = .next s.advance) ∧
    (s.ports.rst = false → s.phase = .altLoop → step s = .next (altStep s.advance)) ∧
    (s.ports.rst = false → s.phase = .resp → s.ports.rspReady = true → step s = .next s.advance.consume) ∧
    (s.ports.rst = false → s.phase = .resp → s.ports.rspReady = false → step s = .next s.advance)

/-- No step stops: the operations "never fail, never signal errors" (spec/60_exceptions.md R200), and the reserved op completes with
a response (R202, where the model reads `raise ReservedOp` as the flag `fault`: log entry 10, DEDUCED). R176 says that a block waiting
in IDLE or RESP has no enabled step; that the model answers a next state there too is the model's choice (log entry 13, DESIGN
CHOICE). -/
def Obligations.StepNeverStops : Prop := ∀ s : State, ∃ t, step s = .next t

/-! ### The operations -/

/-- spec/40_fold.md R105: the response to `PARITY x` is `{err 0, result zext_16(parity(x))}`, and nothing else changes. -/
def Obligations.ParityAnswersParity : Prop :=
  ∀ (x : Word) (s : State), s.phase = .idle →
    exec (.parity x) s = .next { s with rspResultQ := zext16 (parity x), rspErrQ := 0, phase := .resp }

/-- spec/41_bitclear.md R121: ACCEPT of `PARITY_ALT x` loads PCE, and nothing else changes. -/
def Obligations.ParityAltLoadsTheEngine : Prop :=
  ∀ (x : Word) (s : State), s.phase = .idle →
    exec (.parityAlt x) s = .next { s with pceX := x, pceAcc := 0, phase := .altLoop }

/-- spec/42_lookup.md R143, R145: with a complete table, the response to `PARITY_LOOKUP x` is
`{err 0, result zext_16(parity(x))}`; in every state it is the XOR of the four entries; and nothing else changes. -/
def Obligations.ParityLookupAnswersParity : Prop :=
  ∀ (x : Word) (s : State), s.phase = .idle →
    exec (.parityLookup x) s = .next { s with
      rspResultQ := romRead s (chunk 3 x) ^^^ romRead s (chunk 2 x) ^^^ romRead s (chunk 1 x) ^^^ romRead s (chunk 0 x)
      rspErrQ := 0
      phase := .resp } ∧
    (s.RomComplete →
      exec (.parityLookup x) s = .next { s with rspResultQ := zext16 (parity x), rspErrQ := 0, phase := .resp })

/-- spec/60_exceptions.md R202: the reserved op is answered `{err 1, result 0}`, the model's `fault` is set, its operand is
ignored, and nothing else changes; after the response is taken the block is idle (R205, R206). -/
def Obligations.ReservedAnswersError : Prop :=
  ∀ (x : Word) (s : State), s.phase = .idle →
    ∃ t, exec (.reserved x) s = .next t ∧
      t = { s with rspResultQ := 0, rspErrQ := 1, phase := .resp, fault := true } ∧
      t.consume.phase = .idle ∧ t.consume.received = s.received ++ [{ err := 1, result := 0 }]

/-- The frame of the four operations: what each leaves unchanged when it gives a next state. No operation stores to the ROM
(spec/20_memory.md R52), so every entry reads as before. At ACCEPT only PARITY_ALT writes PCE, only the others write the response
registers, and only the reserved op writes `fault` (spec/10_state.md R40). -/
def Obligations.OperationsFrame : Prop :=
  ∀ (i : Instr) (s t : State), exec i s = .next t →
    (∀ a : Chunk, romRead t a = romRead s a) ∧ t.rom = s.rom ∧
    t.config = s.config ∧ t.buildIdx = s.buildIdx ∧ t.epoch = s.epoch ∧ t.inputs = s.inputs ∧
    t.received = s.received ∧
    (isReserved i = false → t.fault = s.fault) ∧
    ((∀ x, i ≠ .parityAlt x) → t.pceX = s.pceX ∧ t.pceAcc = s.pceAcc) ∧
    (∀ x, i = .parityAlt x → t.rspResultQ = s.rspResultQ ∧ t.rspErrQ = s.rspErrQ)

/-- spec/43_transactions.md R171, spec/70_reset_and_hazards.md R226: while `req_ready = 0`, what stands on the request ports
has no effect on any state; and an operation given to a block that is not idle leaves it as it is (log entry 1). -/
def Obligations.BusyBlockIgnoresRequests : Prop :=
  (∀ (i : Instr) (s : State), s.phase ≠ .idle → exec i s = .next s) ∧
  ∀ (s : State) (p q : Inputs) (rest : List Inputs), s.inputs = p :: rest → reqReady p s = false →
    q.rst = p.rst → q.rspReady = p.rspReady →
    step { s with inputs := q :: rest } = step s

/-! ### FOLD -/

/-- spec/40_fold.md R102: after stage `j`, bit `i` below `n_j = 64 / 2^j` holds the XOR of the operand's bits congruent to `i`
modulo `n_j`; and the fold is the parity. -/
def Obligations.FoldStagesHoldPartialParities : Prop :=
  ∀ x : Word,
    (∀ j i : Nat, j ≤ 6 → i < 64 / 2 ^ j →
      (foldAfter j x).getLsbD i =
        (List.range (2 ^ j)).foldl (fun b m => b ^^ x.getLsbD (i + m * (64 / 2 ^ j))) false) ∧
    fold x = parity x

/-- spec/40_fold.md R103: on a 16-bit value the first two stages change nothing, and the fold is the parity of the value. -/
def Obligations.FoldOfAnAddress : Prop :=
  ∀ i : Chunk, foldAfter 1 (zext64 i) = zext64 i ∧ foldAfter 2 (zext64 i) = zext64 i ∧ fold (zext64 i) = parity i

/-! ### PCE -/

/-- spec/41_bitclear.md R123: what `v - 1` and `v & (v - 1)` do for a `v` that is not 0, with lowest set bit `k`; and when
`pce_x = 0` the difference is not written back. -/
def Obligations.ClearLowestSetBit : Prop :=
  (∀ (v : Word) (k : Nat), k < 64 → v.getLsbD k = true → (∀ i < k, v.getLsbD i = false) →
    (∀ i, k < i → i < 64 → (v - 1).getLsbD i = v.getLsbD i) ∧
    (v - 1).getLsbD k = false ∧
    (∀ i < k, (v - 1).getLsbD i = true) ∧
    (∀ i < 64, (clearLowest v).getLsbD i = (v.getLsbD i && i != k)) ∧
    popcount (clearLowest v) + 1 = popcount v ∧
    (v - 1).toNat + 1 = v.toNat) ∧
  (∀ v : Word, v ≠ 0 → ∃ k < 64, v.getLsbD k = true ∧ ∀ i < k, v.getLsbD i = false) ∧
  ∀ s : State, s.pceX = 0 → (altStep s).pceX = 0

/-- spec/41_bitclear.md R122: ALT_STEP is enabled exactly in ALT_LOOP (and without reset, R176); it clears a bit and inverts the
accumulator, or completes. Everything else is unchanged. -/
def Obligations.AltStepEffect : Prop :=
  (∀ (p : Inputs) (s : State), enabledEvent p s = .altStep ↔ p.rst = false ∧ s.phase = .altLoop) ∧
  ∀ s : State, s.phase = .altLoop →
    (s.pceX ≠ 0 → altStep s = { s with pceAcc := s.pceAcc ^^^ 1, pceX := s.pceX &&& (s.pceX - 1) }) ∧
    (s.pceX = 0 → altStep s = { s with rspResultQ := zext16 s.pceAcc, rspErrQ := 0, phase := .resp })

/-- spec/41_bitclear.md R124: from ACCEPT of `PARITY_ALT x`, exactly `popcount(x)` ALT_STEPs iterate and the next one completes;
`popcount(pce_x)` falls by one in each iterating step; the number of ALT_STEPs is between 1 and 65, both reached. -/
def Obligations.AltStepCount : Prop :=
  (∀ (x : Word) (s t : State), s.phase = .idle → exec (.parityAlt x) s = .next t →
    (∀ j, j ≤ popcount x →
      (altStep^[j] t).phase = .altLoop ∧ popcount (altStep^[j] t).pceX + j = popcount x) ∧
    (∀ j, j < popcount x → (altStep^[j] t).pceX ≠ 0) ∧
    (altStep^[popcount x] t).pceX = 0 ∧
    (altStep^[popcount x + 1] t).phase = .resp ∧
    popcount x + 1 ≤ 65) ∧
  popcount (0 : Word) = 0 ∧ popcount (BitVec.allOnes 64) = 64

/-- spec/41_bitclear.md R125: in every ALT_LOOP state reached from `PARITY_ALT x`, `pce_acc ^ parity(pce_x) = parity(x)`; and the
response is `{err 0, result zext_16(parity(x))}`. -/
def Obligations.LoopInvariant : Prop :=
  ∀ (x : Word) (s t : State), s.phase = .idle → exec (.parityAlt x) s = .next t →
    (∀ j, (altStep^[j] t).phase = .altLoop →
      (altStep^[j] t).pceAcc ^^^ parity (altStep^[j] t).pceX = parity x) ∧
    rspPort (altStep^[popcount x + 1] t) = some { err := 0, result := zext16 (parity x) }

/-- spec/43_transactions.md R177, bounded: a loop that no reset interrupts ends after `popcount(pce_x) + 1` steps, whatever the
host does meanwhile, and holds the parity of what was left, on top of the accumulator. -/
def Obligations.LoopEndsWithParity : Prop :=
  ∀ s : State, s.phase = .altLoop → (∀ p ∈ s.inputs.take (popcount s.pceX + 1), p.rst = false) →
    ∃ t, run (popcount s.pceX + 1) s = .next t ∧ t.phase = .resp ∧ t.rspErrQ = 0 ∧
      t.rspResultQ = zext16 (s.pceAcc ^^^ parity s.pceX) ∧ t.received = s.received ∧ t.fault = s.fault ∧
      t.rom = s.rom ∧ t.inputs = s.inputs.drop (popcount s.pceX + 1)

/-! ### ROM, LMUX and the build -/

/-- spec/00_scope.md R9, spec/42_lookup.md R140: chunk `k` is `x[16k+15 : 16k]`, and the four chunks together are the operand. -/
def Obligations.ChunksPartitionTheOperand : Prop :=
  ∀ x : Word,
    (∀ k i : Nat, k < 4 → i < 16 → (chunk k x).getLsbD i = x.getLsbD (16 * k + i)) ∧
    x = chunk 3 x ++ chunk 2 x ++ chunk 1 x ++ chunk 0 x

/-- spec/42_lookup.md R144: outside BUILD, bits [15:1] of every entry and of every lookup are 0, and bit 0 of a lookup is the XOR
of the bits 0 of the entries; the result is 0 or 1. -/
def Obligations.LookupResultRange : Prop :=
  ∀ (s : State) (x : Word), s.Inv → s.phase ≠ .build →
    (∀ (a : Chunk) (i : Nat), 1 ≤ i → (romRead s a).getLsbD i = false) ∧
    (∀ i : Nat, 1 ≤ i → (lookup s x).getLsbD i = false) ∧
    (lookup s x).getLsbD 0 =
      ((romRead s (chunk 3 x)).getLsbD 0 ^^ (romRead s (chunk 2 x)).getLsbD 0 ^^
        (romRead s (chunk 1 x)).getLsbD 0 ^^ (romRead s (chunk 0 x)).getLsbD 0) ∧
    (lookup s x = 0 ∨ lookup s x = 1)

/-- spec/42_lookup.md R145: outside BUILD the lookup is the XOR of the chunks' parities, which is the parity of the operand. -/
def Obligations.LookupClosedForm : Prop :=
  ∀ (s : State) (x : Word), s.Inv → s.phase ≠ .build →
    lookup s x =
      zext16 (parity (chunk 3 x) ^^^ parity (chunk 2 x) ^^^ parity (chunk 1 x) ^^^ parity (chunk 0 x)) ∧
    lookup s x = zext16 (parity x)

/-- spec/42_lookup.md R146: the XOR of the four chunk lookups is the parity of the whole value, and the three operations agree:
each leaves the same response on the port, PARITY_ALT after its ALT_STEPs. -/
def Obligations.ThreeOperationsAgree : Prop :=
  ∀ (s : State) (x : Word), s.Inv → s.phase = .idle →
    romRead s (chunk 3 x) ^^^ romRead s (chunk 2 x) ^^^ romRead s (chunk 1 x) ^^^ romRead s (chunk 0 x) =
      zext16 (parity x) ∧
    ∃ t u v, exec (.parity x) s = .next t ∧ exec (.parityAlt x) s = .next u ∧ exec (.parityLookup x) s = .next v ∧
      rspPort t = some { err := 0, result := zext16 (parity x) } ∧
      rspPort (altStep^[popcount x + 1] u) = rspPort t ∧
      rspPort v = rspPort t

/-- spec/42_lookup.md R150: a BUILD_STEP is enabled exactly in BUILD (and without reset); it writes the fold of the index at the
index, which is the parity of the index, and no other entry; the last one, at 65535, ends the build. -/
def Obligations.BuildStepWritesOneEntry : Prop :=
  (∀ (p : Inputs) (s : State), enabledEvent p s = .buildStep ↔ p.rst = false ∧ s.phase = .build) ∧
  ∀ (s : State) (i : Chunk), s.config.romPreloaded = false → s.phase = .build → s.buildIdx.toNat = i.toNat →
    romRead (buildStep s) i = zext16 (fold (zext64 i)) ∧
    romRead (buildStep s) i = zext16 (parity i) ∧
    (∀ a : Chunk, a ≠ i → romRead (buildStep s) a = romRead s a) ∧
    (buildStep s).buildIdx.toNat = i.toNat + 1 ∧
    (buildStep s).phase = (if i.toNat = 65535 then .idle else .build) ∧
    (buildStep s).fault = s.fault ∧ (buildStep s).received = s.received ∧
    (buildStep s).pceX = s.pceX ∧ (buildStep s).pceAcc = s.pceAcc ∧
    (buildStep s).rspResultQ = s.rspResultQ ∧ (buildStep s).rspErrQ = s.rspErrQ

/-- spec/42_lookup.md R151, R152: a build that no reset interrupts takes exactly 65536 BUILD_STEPs, in ascending order, whatever the
host offers and whatever the ROM held, and leaves the table. -/
def Obligations.BuildFillsTheTable : Prop :=
  ∀ s : State, s.config.romPreloaded = false → s.phase = .build → s.buildIdx = 0 →
    (∀ p ∈ s.inputs.take 65536, p.rst = false) →
    (∀ k < 65536, ∃ t, run k s = .next t ∧ t.phase = .build ∧ t.buildIdx.toNat = k ∧ t.RomBuiltBelow k ∧
      enabledEvent t.ports t = .buildStep) ∧
    ∃ t, run 65536 s = .next t ∧ t.phase = .idle ∧ t.buildIdx.toNat = 65536 ∧ t.RomComplete ∧
      t.received = s.received ∧ t.fault = s.fault ∧ t.inputs = s.inputs.drop 65536

/-- spec/20_memory.md R53: in every state of a run that is not in BUILD, in either mode and whatever host and platform do, entry `i`
is `zext_16(parity(i))`, so its bits [15:1] are 0. -/
def Obligations.RomHoldsTheTable : Prop :=
  ∀ (c : Config) (s : State), Reachable c s → s.phase ≠ .build → ∀ a : Chunk,
    romRead s a = zext16 (parity a) ∧
    (∀ i : Nat, 1 ≤ i → (romRead s a).getLsbD i = false) ∧
    (romRead s a).getLsbD 0 = decide (popcount a % 2 = 1)

/-- spec/20_memory.md R53: every entry of the table is 0 or 1, and flipping any one bit of an address flips its entry; so the
addresses pair off, and as many entries are 1 as are 0. -/
def Obligations.FlippedAddressBitFlipsEntry : Prop :=
  ∀ (a : Chunk) (k : Nat), k < 16 →
    (tableEntry a = 0 ∨ tableEntry a = 1) ∧
    tableEntry (a ^^^ (1#16 <<< k)) = tableEntry a ^^^ 1

/-- spec/42_lookup.md R147, spec/20_memory.md R58: in a run no request of any operation is accepted before the table is complete. -/
def Obligations.AcceptNeedsTheTable : Prop :=
  ∀ (c : Config) (s : State) (i : Instr), Reachable c s → enabledEvent s.ports s = .accept i →
    s.RomComplete ∧ initDone s = true

/-! ### Transactions -/

/-- spec/43_transactions.md R172: a response transfers when `rsp_valid` and `rsp_ready` are high; the host then receives
`{rsp_err_q, rsp_result_q}` and the block is idle. While `rsp_ready = 0` the response stays on the port unchanged, for as many steps as
the host waits. -/
def Obligations.ResponseHeldUntilTaken : Prop :=
  (∀ s : State, s.phase = .resp → s.ports.rst = false → s.ports.rspReady = true →
    step s = .next { s with
      phase := .idle
      received := s.received ++ [{ err := s.rspErrQ, result := s.rspResultQ }]
      inputs := s.inputs.tail }) ∧
  ∀ (k : Nat) (s : State), s.phase = .resp →
    (∀ p ∈ s.inputs.take k, p.rst = false ∧ p.rspReady = false) →
    ∃ t, run k s = .next t ∧ rspPort t = some { err := s.rspErrQ, result := s.rspResultQ } ∧
      t.received = s.received ∧ t.fault = s.fault

/-- spec/43_transactions.md R173: between an ACCEPT and the CONSUME of its response the phase is ALT_LOOP or RESP, so no request
is accepted, and no response is dropped, duplicated or overwritten, unless a reset intervenes. -/
def Obligations.InFlightUntilConsumed : Prop :=
  (∀ (s t : State) (i : Instr), enabledEvent s.ports s = .accept i → step s = .next t →
    (t.phase = .altLoop ∨ t.phase = .resp) ∧ t.received = s.received) ∧
  (∀ s t : State, s.phase = .altLoop ∨ s.phase = .resp → s.ports.rst = false → step s = .next t →
    (∀ p, reqReady p s = false) ∧
    (enabledEvent s.ports s = .consume →
      t.phase = .idle ∧ t.received = s.received ++ [{ err := s.rspErrQ, result := s.rspResultQ }]) ∧
    (enabledEvent s.ports s ≠ .consume →
      (t.phase = .altLoop ∨ t.phase = .resp) ∧ t.received = s.received ∧
      (s.phase = .resp → t.phase = .resp ∧ t.rspErrQ = s.rspErrQ ∧ t.rspResultQ = s.rspResultQ)))

/-- spec/43_transactions.md R180, R173: whatever operation and operand, whatever the state the block is idle in, and however the host
behaves while it waits, a transaction that no reset interrupts is answered with the response that the request alone determines,
exactly once, and the block is idle again. A waiting step counts as one call of `step` (log entry 13). -/
def Obligations.TransactionAnswered : Prop :=
  ∀ (s : State) (i : Instr) (offer take : Inputs) (waits rest : List Inputs),
    s.Inv → s.phase = .idle → s.inputs = offer :: (waits ++ take :: rest) →
    offer.rst = false → offer.reqValid = true → offer.instr = i →
    (∀ p ∈ waits, p.rst = false ∧ p.rspReady = false) → blockSteps i ≤ waits.length →
    take.rst = false → take.rspReady = true →
    ∃ t, run (waits.length + 2) s = .next t ∧ t.phase = .idle ∧ t.received = s.received ++ [answer i] ∧
      t.fault = (s.fault || isReserved i) ∧ t.inputs = rest ∧ t.config = s.config ∧
      ∀ a : Chunk, romRead t a = romRead s a

/-- spec/70_reset_and_hazards.md R232: with the host ready at once, a transaction takes 2 steps, and `PARITY_ALT x` takes
`popcount(x) + 3`; the response is not received before. -/
def Obligations.ReadyHostStepCounts : Prop :=
  ∀ (s : State) (i : Instr) (offer : Inputs) (ready rest : List Inputs),
    s.Inv → s.phase = .idle → s.inputs = offer :: (ready ++ rest) →
    offer.rst = false → offer.reqValid = true → offer.instr = i →
    (∀ p ∈ ready, p.rst = false ∧ p.rspReady = true) → ready.length = blockSteps i + 1 →
    (∀ k < blockSteps i + 2, ∃ t, run k s = .next t ∧ t.received = s.received) ∧
    ∃ t, run (blockSteps i + 2) s = .next t ∧ t.received = s.received ++ [answer i] ∧ t.phase = .idle ∧
      t.inputs = rest

/-- spec/30_encoding.md R76, R77: a transaction line, carried out by a host that waits long enough, is a wait, one ACCEPT and one
CONSUME, and records the answer of its request. The line may start in an idle block, or during BUILD, where the host waits for
`req_ready = 1` through the BUILD_STEPs that remain (program P3 of spec/95_test_vectors.md). How the model's script host offers and
bounds its waits is log entry 15 (DESIGN CHOICE). -/
def Obligations.ScriptLineIsOneTransaction : Prop :=
  ∀ (s : State) (i : Instr) (bound : Nat), s.Inv → s.phase = .idle ∨ s.phase = .build →
    buildStepsLeft s + 1 ≤ bound → blockSteps i + 1 ≤ bound →
    ∃ t, runLine bound (.transaction i) s = .next t ∧ t.phase = .idle ∧ t.received = s.received ++ [answer i] ∧
      t.fault = (s.fault || isReserved i)

/-- spec/30_encoding.md R76, spec/43_transactions.md R178: a script of transactions of any length, carried out from an idle block, ends
with the responses of its requests in order, and `fault` set if one of them was reserved. The script host is log entry 15. -/
def Obligations.ScriptObservation : Prop :=
  ∀ (s : State) (is : List Instr) (bound : Nat), s.Inv → s.phase = .idle → s.inputs = [] → 66 ≤ bound →
    ∃ t, runScript bound (is.map ScriptLine.transaction) s = .next t ∧ t.runEnded ∧
      t.observation = (s.received ++ is.map answer, s.fault || is.any isReserved)

/-- spec/43_transactions.md R171, spec/70_reset_and_hazards.md R228: a request that the host keeps unchanged while it is not accepted is
still offered after the wait, and the step in which `req_ready = 1` ends the wait performs exactly that request. A waiting step
counts as one call of `step` (log entry 13). -/
def Obligations.HeldRequestIsTheOnePerformed : Prop :=
  ∀ (n : Nat) (s t : State), s.ports.reqValid = true →
    (∀ (k : Nat) (u : State), k < n → run k s = .next u → reqReady u.ports u = false ∧ u.hostHoldsRequest) →
    run n s = .next t →
    t.ports.reqValid = true ∧ t.ports.instr = s.ports.instr ∧
    (reqReady t.ports t = true → step t = exec s.ports.instr t.advance)

/-! ### Reset, outputs and the whole machine -/

/-- spec/70_reset_and_hazards.md R221, R222, spec/10_state.md R39: what RESET leaves, from any state. A transaction in flight gives no
response and a build starts again. Nothing is said of the registers that hold no value then (log entry 4). -/
def Obligations.ResetLeaves : Prop :=
  ∀ s : State, s.ports.rst = true →
    ∃ t, step s = .next t ∧
      (s.config.romPreloaded = true →
        t.phase = .idle ∧ (∀ p, p.rst = false → reqReady p t = true) ∧ initDone t = true ∧
        ∀ a : Chunk, romRead t a = zext16 (parity a)) ∧
      (s.config.romPreloaded = false →
        t.phase = .build ∧ t.buildIdx = 0 ∧ (∀ p, reqReady p t = false) ∧ initDone t = false) ∧
      rspValid t = false ∧ t.fault = s.fault ∧ t.received = s.received ∧ t.config = s.config

/-- spec/70_reset_and_hazards.md R220: a step with `rst = 1` is a RESET step whatever the phase and whatever else the host does; repeating
it has the same effect each time, on all that holds a value; and `req_ready = 0`. -/
def Obligations.ResetHasPrecedence : Prop :=
  (∀ s : State, s.ports.rst = true →
    enabledEvent s.ports s = .reset ∧ step s = .next s.advance.resetStep ∧ reqReady s.ports s = false) ∧
  ∀ s : State, s.resetStep.resetStep.LiveEq s.resetStep

/-- spec/70_reset_and_hazards.md R224, R223: after one RESET step from any state whatever, and 65536 further steps with
`ROM_PRELOADED = false`, the block is ready and its table is complete. -/
def Obligations.ResetMakesReady : Prop :=
  ∀ s : State, s.ports.rst = true →
    let n := if s.config.romPreloaded then 1 else 65537
    (∀ p ∈ (s.inputs.tail).take 65536, p.rst = false) →
    ∃ t, run n s = .next t ∧ t.phase = .idle ∧ t.RomComplete ∧ t.received = s.received ∧ t.fault = s.fault

/-- spec/10_state.md R25, R26: every output port is a function of the state, and the response ports give no value while
`rsp_valid = 0`. -/
def Obligations.OutputsFollowState : Prop :=
  ∀ (p : Inputs) (s : State),
    ((outputs p s).reqReady = true ↔ s.phase = .idle ∧ p.rst = false) ∧
    ((outputs p s).rspValid = true ↔ s.phase = .resp) ∧
    ((outputs p s).rspValid = true →
      (outputs p s).response = some { err := s.rspErrQ, result := s.rspResultQ }) ∧
    ((outputs p s).rspValid = false → (outputs p s).response = none) ∧
    ((outputs p s).initDone = true ↔ s.phase ≠ .build)

/-- spec/10_state.md R37: `fault` is false at the start of a run, set by a reserved request and by nothing else, and never cleared,
reset included. -/
def Obligations.FaultOnlyFromReserved : Prop :=
  (∀ (c : Config) (s : State), s.IsStart c → s.noFault) ∧ State.reset.noFault ∧
  ∀ s t : State, step s = .next t →
    (t.fault = true ↔ s.fault = true ∨ ∃ x, enabledEvent s.ports s = .accept (.reserved x))

/-- spec/10_state.md R30: by what steps each phase is entered. -/
def Obligations.PhaseEnteredBy : Prop :=
  ∀ s t : State, step s = .next t → s.phase ≠ t.phase →
    (t.phase = .build → enabledEvent s.ports s = .reset ∧ s.config.romPreloaded = false) ∧
    (t.phase = .idle →
      (enabledEvent s.ports s = .reset ∧ s.config.romPreloaded = true) ∨
      (enabledEvent s.ports s = .buildStep ∧ s.buildIdx = 65535) ∨
      enabledEvent s.ports s = .consume) ∧
    (t.phase = .altLoop → ∃ x, enabledEvent s.ports s = .accept (.parityAlt x)) ∧
    (t.phase = .resp →
      (∃ i, enabledEvent s.ports s = .accept i ∧ ∀ x, i ≠ .parityAlt x) ∨
      (enabledEvent s.ports s = .altStep ∧ s.pceX = 0))

/-- spec/10_state.md R40, spec/20_memory.md R52: a step that changes a piece of state is one that writes it. That RESET also leaves other
values in the data registers and in an unbuilt ROM is the model's reading of "unspecified" (R39; log entries 4 and 8). -/
def Obligations.StateWrittenOnlyBy : Prop :=
  ∀ s t : State, step s = .next t →
    let e := enabledEvent s.ports s
    t.config = s.config ∧
    ((∃ a : Chunk, romRead t a ≠ romRead s a) →
      s.config.romPreloaded = false ∧ (e = .buildStep ∧ s.phase = .build ∨ e = .reset)) ∧
    (t.buildIdx ≠ s.buildIdx → e = .buildStep ∨ (e = .reset ∧ s.config.romPreloaded = false)) ∧
    (t.pceX ≠ s.pceX ∨ t.pceAcc ≠ s.pceAcc → e = .altStep ∨ (∃ x, e = .accept (.parityAlt x)) ∨ e = .reset) ∧
    (t.rspResultQ ≠ s.rspResultQ ∨ t.rspErrQ ≠ s.rspErrQ →
      (e = .altStep ∧ s.pceX = 0) ∨ (∃ i, e = .accept i ∧ ∀ x, i ≠ .parityAlt x) ∨ e = .reset) ∧
    (t.received ≠ s.received → e = .consume)

/-- The invariant `State.Inv` is kept by every step, from every state that has it: the ROM list keeps its canonical form, a mask ROM is
never written, the build index is in range and what is below it is built, the table is complete outside BUILD, and every response
is a parity without error or the error with result 0 (spec/20_memory.md R53, spec/42_lookup.md R151, spec/10_state.md R35,
spec/30_encoding.md R72). -/
def Obligations.InvariantKeptByEveryStep : Prop :=
  ∀ s t : State, s.Inv → step s = .next t → t.Inv

/-- The invariant holds right after reset, in both modes, whatever the data registers hold. -/
def Obligations.InvariantAfterReset : Prop :=
  State.reset.Inv ∧ ∀ (c : Config) (s : State), s.IsStart c → s.Inv

/-- spec/10_state.md R38, spec/43_transactions.md R176: no step reads a register or entry that holds no value. Two states that agree on
all that holds a value step to two such states, and show the host the same outputs; so neither the values named at reset
(log entries 3 and 5) nor the free values (log entries 4 and 8) ever reach the host. -/
def Obligations.UnwrittenStateNeverRead : Prop :=
  ∀ s t s' t' : State, s.LiveEq t → step s = .next s' → step t = .next t' →
    s'.LiveEq t' ∧ outputs s.ports s = outputs t.ports t
end

