-- ==== Sys2Proof/Laws/Memory.lean ====
section
/-! SUPPORT. The laws of the ROM's list of written entries: reading after writing, and the canonical form. -/

namespace Sys2Proof.Machine

open Sys2Proof

@[simp] theorem Memory.lookup_erase_self (m : RomCells) (a : Nat) : Memory.lookup (Memory.erase m a) a = none := by
  induction m with
  | nil => rfl
  | cons c rest ih =>
    by_cases h : c.1 = a <;> simp_all [Memory.erase, Memory.lookup]

theorem Memory.lookup_erase_ne (m : RomCells) {a b : Nat} (hab : b ≠ a) :
    Memory.lookup (Memory.erase m a) b = Memory.lookup m b := by
  induction m with
  | nil => rfl
  | cons c rest ih =>
    by_cases h : c.1 = a
    · have hb : c.1 ≠ b := fun h' => hab (h'.symm.trans h)
      simp_all [Memory.erase, Memory.lookup]
    · by_cases hb : c.1 = b <;> simp_all [Memory.erase, Memory.lookup]

theorem Memory.lookup_insert_ne (m : RomCells) {a b : Nat} (v : Entry) (hab : b ≠ a) :
    Memory.lookup (Memory.insert m a v) b = Memory.lookup m b := by
  induction m with
  | nil => simp [Memory.insert, Memory.lookup, Ne.symm hab]
  | cons c rest ih =>
    unfold Memory.insert
    split
    · simp [Memory.lookup, Ne.symm hab]
    · by_cases hb : c.1 = b <;> simp [Memory.lookup, hb, ih]

theorem Memory.lookup_insert_self (m : RomCells) (a : Nat) (v : Entry) (h : Memory.lookup m a = none) :
    Memory.lookup (Memory.insert m a v) a = some v := by
  induction m with
  | nil => simp [Memory.insert, Memory.lookup]
  | cons c rest ih =>
    by_cases hc : c.1 = a
    · simp [Memory.lookup, hc] at h
    · simp only [Memory.lookup, hc, if_false] at h
      unfold Memory.insert
      split
      · simp [Memory.lookup]
      · simp [Memory.lookup, hc, ih h]

/-- A read after a write to the same address gives the value written. -/
@[simp] theorem Memory.read_write_self (e : Nat) (m : RomCells) (a : Chunk) (v : Entry) :
    Memory.read e (Memory.write e m a v) a = v := by
  unfold Memory.read Memory.write
  split
  · rename_i h
    simp [h]
  · simp [Memory.lookup_insert_self]

/-- A write leaves every other address as it was. -/
theorem Memory.read_write_ne (e : Nat) (m : RomCells) {a b : Chunk} (v : Entry) (hab : b ≠ a) :
    Memory.read e (Memory.write e m a v) b = Memory.read e m b := by
  have hn : b.toNat ≠ a.toNat := fun h => hab (BitVec.eq_of_toNat_eq h)
  unfold Memory.read Memory.write
  split
  · rw [Memory.lookup_erase_ne m hn]
  · rw [Memory.lookup_insert_ne _ v hn, Memory.lookup_erase_ne m hn]

theorem Memory.mem_erase {m : RomCells} {a : Nat} {c : Nat × Entry} (h : c ∈ Memory.erase m a) : c ∈ m ∧ c.1 ≠ a := by
  simpa [Memory.erase] using h

theorem Memory.mem_insert {m : RomCells} {a : Nat} {v : Entry} {c : Nat × Entry} (h : c ∈ Memory.insert m a v) :
    c = (a, v) ∨ c ∈ m := by
  induction m with
  | nil => exact .inl (by simpa [Memory.insert] using h)
  | cons d rest ih =>
    unfold Memory.insert at h
    split at h
    · simpa using h
    · rcases List.mem_cons.mp h with h | h
      · exact .inr (by simp [h])
      · exact (ih h).imp id (List.mem_cons_of_mem _)

theorem Memory.insert_sorted {m : RomCells} {a : Nat} (v : Entry) (h : m.Pairwise (fun c d => c.1 < d.1))
    (ha : ∀ c ∈ m, c.1 ≠ a) : (Memory.insert m a v).Pairwise (fun c d => c.1 < d.1) := by
  induction m with
  | nil => simp [Memory.insert]
  | cons d rest ih =>
    obtain ⟨hd, hrest⟩ := List.pairwise_cons.mp h
    unfold Memory.insert
    split
    · rename_i hlt
      refine List.pairwise_cons.mpr ⟨fun c hc => ?_, h⟩
      rcases List.mem_cons.mp hc with rfl | hc
      · exact hlt
      · exact Nat.lt_trans hlt (hd c hc)
    · rename_i hge
      refine List.pairwise_cons.mpr ⟨fun c hc => ?_, ih hrest (fun c hc => ha c (List.mem_cons_of_mem _ hc))⟩
      rcases Memory.mem_insert hc with rfl | hc
      · exact Nat.lt_of_le_of_ne (Nat.le_of_not_lt hge) (ha d (by simp))
      · exact hd c hc

/-- What the canonical form says. -/
theorem Memory.wf_iff (e : Nat) (m : RomCells) :
    Memory.wf e m = true ↔ m.Pairwise (fun c d => c.1 < d.1) ∧
      ∀ c ∈ m, c.1 < Config.romDepth ∧ c.2 ≠ Memory.unlisted e (BitVec.ofNat 16 c.1) := by
  simp [Memory.wf]

/-- Every write keeps the canonical form. -/
theorem Memory.write_wf (e : Nat) {m : RomCells} (a : Chunk) (v : Entry) (h : Memory.wf e m = true) :
    Memory.wf e (Memory.write e m a v) = true := by
  obtain ⟨hsorted, hcells⟩ := (Memory.wf_iff e m).mp h
  have herase : (Memory.erase m a.toNat).Pairwise (fun c d => c.1 < d.1) := hsorted.filter _
  refine (Memory.wf_iff e _).mpr ?_
  unfold Memory.write
  split
  · exact ⟨herase, fun c hc => hcells c (Memory.mem_erase hc).1⟩
  · rename_i hv
    refine ⟨Memory.insert_sorted v herase (fun c hc => (Memory.mem_erase hc).2), fun c hc => ?_⟩
    rcases Memory.mem_insert hc with rfl | hc
    · exact ⟨a.isLt, by simpa using hv⟩
    · exact hcells c (Memory.mem_erase hc).1

/-- A ROM in which nothing is listed has the canonical form. -/
@[simp] theorem Memory.nil_wf (e : Nat) : Memory.wf e [] = true := rfl

end Sys2Proof.Machine
end

