-- ==== Sys2Proof/Laws/State.lean ====
section
/-! SUPPORT. One lemma per field of State and update, so that no proof unfolds a record update. -/

namespace Sys2Proof.Machine

open Sys2Proof

variable (s : State)

@[simp] theorem respond_config (err : Bit) (result : Result) : (s.respond err result).config = s.config := by rfl
@[simp] theorem respond_phase (err : Bit) (result : Result) : (s.respond err result).phase = .resp := by rfl
@[simp] theorem respond_pceX (err : Bit) (result : Result) : (s.respond err result).pceX = s.pceX := by rfl
@[simp] theorem respond_pceAcc (err : Bit) (result : Result) : (s.respond err result).pceAcc = s.pceAcc := by rfl
@[simp] theorem respond_rspResultQ (err : Bit) (result : Result) : (s.respond err result).rspResultQ = result := by rfl
@[simp] theorem respond_rspErrQ (err : Bit) (result : Result) : (s.respond err result).rspErrQ = err := by rfl
@[simp] theorem respond_buildIdx (err : Bit) (result : Result) : (s.respond err result).buildIdx = s.buildIdx := by rfl
@[simp] theorem respond_rom (err : Bit) (result : Result) : (s.respond err result).rom = s.rom := by rfl
@[simp] theorem respond_fault (err : Bit) (result : Result) : (s.respond err result).fault = s.fault := by rfl
@[simp] theorem respond_epoch (err : Bit) (result : Result) : (s.respond err result).epoch = s.epoch := by rfl
@[simp] theorem respond_inputs (err : Bit) (result : Result) : (s.respond err result).inputs = s.inputs := by rfl
@[simp] theorem respond_received (err : Bit) (result : Result) : (s.respond err result).received = s.received := by rfl
@[simp] theorem respond_romRead (err : Bit) (result : Result) (a : Chunk) : romRead (s.respond err result) a = romRead s a := by rfl

@[simp] theorem startPce_config (x : Word) : (s.startPce x).config = s.config := by rfl
@[simp] theorem startPce_phase (x : Word) : (s.startPce x).phase = .altLoop := by rfl
@[simp] theorem startPce_pceX (x : Word) : (s.startPce x).pceX = x := by rfl
@[simp] theorem startPce_pceAcc (x : Word) : (s.startPce x).pceAcc = 0 := by rfl
@[simp] theorem startPce_rspResultQ (x : Word) : (s.startPce x).rspResultQ = s.rspResultQ := by rfl
@[simp] theorem startPce_rspErrQ (x : Word) : (s.startPce x).rspErrQ = s.rspErrQ := by rfl
@[simp] theorem startPce_buildIdx (x : Word) : (s.startPce x).buildIdx = s.buildIdx := by rfl
@[simp] theorem startPce_rom (x : Word) : (s.startPce x).rom = s.rom := by rfl
@[simp] theorem startPce_fault (x : Word) : (s.startPce x).fault = s.fault := by rfl
@[simp] theorem startPce_epoch (x : Word) : (s.startPce x).epoch = s.epoch := by rfl
@[simp] theorem startPce_inputs (x : Word) : (s.startPce x).inputs = s.inputs := by rfl
@[simp] theorem startPce_received (x : Word) : (s.startPce x).received = s.received := by rfl
@[simp] theorem startPce_romRead (x : Word) (a : Chunk) : romRead (s.startPce x) a = romRead s a := by rfl

@[simp] theorem raiseReservedOp_config : (s.raiseReservedOp).config = s.config := by rfl
@[simp] theorem raiseReservedOp_phase : (s.raiseReservedOp).phase = .resp := by rfl
@[simp] theorem raiseReservedOp_pceX : (s.raiseReservedOp).pceX = s.pceX := by rfl
@[simp] theorem raiseReservedOp_pceAcc : (s.raiseReservedOp).pceAcc = s.pceAcc := by rfl
@[simp] theorem raiseReservedOp_rspResultQ : (s.raiseReservedOp).rspResultQ = 0 := by rfl
@[simp] theorem raiseReservedOp_rspErrQ : (s.raiseReservedOp).rspErrQ = 1 := by rfl
@[simp] theorem raiseReservedOp_buildIdx : (s.raiseReservedOp).buildIdx = s.buildIdx := by rfl
@[simp] theorem raiseReservedOp_rom : (s.raiseReservedOp).rom = s.rom := by rfl
@[simp] theorem raiseReservedOp_fault : (s.raiseReservedOp).fault = true := by rfl
@[simp] theorem raiseReservedOp_epoch : (s.raiseReservedOp).epoch = s.epoch := by rfl
@[simp] theorem raiseReservedOp_inputs : (s.raiseReservedOp).inputs = s.inputs := by rfl
@[simp] theorem raiseReservedOp_received : (s.raiseReservedOp).received = s.received := by rfl
@[simp] theorem raiseReservedOp_romRead (a : Chunk) : romRead (s.raiseReservedOp) a = romRead s a := by rfl

@[simp] theorem consume_config : (s.consume).config = s.config := by rfl
@[simp] theorem consume_phase : (s.consume).phase = .idle := by rfl
@[simp] theorem consume_pceX : (s.consume).pceX = s.pceX := by rfl
@[simp] theorem consume_pceAcc : (s.consume).pceAcc = s.pceAcc := by rfl
@[simp] theorem consume_rspResultQ : (s.consume).rspResultQ = s.rspResultQ := by rfl
@[simp] theorem consume_rspErrQ : (s.consume).rspErrQ = s.rspErrQ := by rfl
@[simp] theorem consume_buildIdx : (s.consume).buildIdx = s.buildIdx := by rfl
@[simp] theorem consume_rom : (s.consume).rom = s.rom := by rfl
@[simp] theorem consume_fault : (s.consume).fault = s.fault := by rfl
@[simp] theorem consume_epoch : (s.consume).epoch = s.epoch := by rfl
@[simp] theorem consume_inputs : (s.consume).inputs = s.inputs := by rfl
@[simp] theorem consume_received : (s.consume).received = s.received ++ [{ err := s.rspErrQ, result := s.rspResultQ }] := by rfl
@[simp] theorem consume_romRead (a : Chunk) : romRead (s.consume) a = romRead s a := by rfl

@[simp] theorem advance_config : (s.advance).config = s.config := by rfl
@[simp] theorem advance_phase : (s.advance).phase = s.phase := by rfl
@[simp] theorem advance_pceX : (s.advance).pceX = s.pceX := by rfl
@[simp] theorem advance_pceAcc : (s.advance).pceAcc = s.pceAcc := by rfl
@[simp] theorem advance_rspResultQ : (s.advance).rspResultQ = s.rspResultQ := by rfl
@[simp] theorem advance_rspErrQ : (s.advance).rspErrQ = s.rspErrQ := by rfl
@[simp] theorem advance_buildIdx : (s.advance).buildIdx = s.buildIdx := by rfl
@[simp] theorem advance_rom : (s.advance).rom = s.rom := by rfl
@[simp] theorem advance_fault : (s.advance).fault = s.fault := by rfl
@[simp] theorem advance_epoch : (s.advance).epoch = s.epoch := by rfl
@[simp] theorem advance_inputs : (s.advance).inputs = s.inputs.tail := by rfl
@[simp] theorem advance_received : (s.advance).received = s.received := by rfl
@[simp] theorem advance_romRead (a : Chunk) : romRead (s.advance) a = romRead s a := by rfl

@[simp] theorem romWrite_config (a : Chunk) (v : Entry) : (romWrite s a v).config = s.config := by rfl
@[simp] theorem romWrite_phase (a : Chunk) (v : Entry) : (romWrite s a v).phase = s.phase := by rfl
@[simp] theorem romWrite_pceX (a : Chunk) (v : Entry) : (romWrite s a v).pceX = s.pceX := by rfl
@[simp] theorem romWrite_pceAcc (a : Chunk) (v : Entry) : (romWrite s a v).pceAcc = s.pceAcc := by rfl
@[simp] theorem romWrite_rspResultQ (a : Chunk) (v : Entry) : (romWrite s a v).rspResultQ = s.rspResultQ := by rfl
@[simp] theorem romWrite_rspErrQ (a : Chunk) (v : Entry) : (romWrite s a v).rspErrQ = s.rspErrQ := by rfl
@[simp] theorem romWrite_buildIdx (a : Chunk) (v : Entry) : (romWrite s a v).buildIdx = s.buildIdx := by rfl
@[simp] theorem romWrite_rom (a : Chunk) (v : Entry) : (romWrite s a v).rom = Memory.write s.epoch s.rom a v := by rfl
@[simp] theorem romWrite_fault (a : Chunk) (v : Entry) : (romWrite s a v).fault = s.fault := by rfl
@[simp] theorem romWrite_epoch (a : Chunk) (v : Entry) : (romWrite s a v).epoch = s.epoch := by rfl
@[simp] theorem romWrite_inputs (a : Chunk) (v : Entry) : (romWrite s a v).inputs = s.inputs := by rfl
@[simp] theorem romWrite_received (a : Chunk) (v : Entry) : (romWrite s a v).received = s.received := by rfl

@[simp] theorem buildStep_config : (buildStep s).config = s.config := by rfl
@[simp] theorem buildStep_phase : (buildStep s).phase = (if s.buildIdx = 65535 then .idle else s.phase) := by rfl
@[simp] theorem buildStep_pceX : (buildStep s).pceX = s.pceX := by rfl
@[simp] theorem buildStep_pceAcc : (buildStep s).pceAcc = s.pceAcc := by rfl
@[simp] theorem buildStep_rspResultQ : (buildStep s).rspResultQ = s.rspResultQ := by rfl
@[simp] theorem buildStep_rspErrQ : (buildStep s).rspErrQ = s.rspErrQ := by rfl
@[simp] theorem buildStep_buildIdx : (buildStep s).buildIdx = s.buildIdx + 1 := by rfl
@[simp] theorem buildStep_rom : (buildStep s).rom = Memory.write s.epoch s.rom (buildAddress s) (zext16 (fold (zext64 (buildAddress s)))) := by rfl
@[simp] theorem buildStep_fault : (buildStep s).fault = s.fault := by rfl
@[simp] theorem buildStep_epoch : (buildStep s).epoch = s.epoch := by rfl
@[simp] theorem buildStep_inputs : (buildStep s).inputs = s.inputs := by rfl
@[simp] theorem buildStep_received : (buildStep s).received = s.received := by rfl

@[simp] theorem withPorts_config (p : Inputs) : (s.withPorts p).config = s.config := by rfl
@[simp] theorem withPorts_phase (p : Inputs) : (s.withPorts p).phase = s.phase := by rfl
@[simp] theorem withPorts_pceX (p : Inputs) : (s.withPorts p).pceX = s.pceX := by rfl
@[simp] theorem withPorts_pceAcc (p : Inputs) : (s.withPorts p).pceAcc = s.pceAcc := by rfl
@[simp] theorem withPorts_rspResultQ (p : Inputs) : (s.withPorts p).rspResultQ = s.rspResultQ := by rfl
@[simp] theorem withPorts_rspErrQ (p : Inputs) : (s.withPorts p).rspErrQ = s.rspErrQ := by rfl
@[simp] theorem withPorts_buildIdx (p : Inputs) : (s.withPorts p).buildIdx = s.buildIdx := by rfl
@[simp] theorem withPorts_rom (p : Inputs) : (s.withPorts p).rom = s.rom := by rfl
@[simp] theorem withPorts_fault (p : Inputs) : (s.withPorts p).fault = s.fault := by rfl
@[simp] theorem withPorts_epoch (p : Inputs) : (s.withPorts p).epoch = s.epoch := by rfl
@[simp] theorem withPorts_inputs (p : Inputs) : (s.withPorts p).inputs = [p] := by rfl
@[simp] theorem withPorts_received (p : Inputs) : (s.withPorts p).received = s.received := by rfl
@[simp] theorem withPorts_romRead (p : Inputs) (a : Chunk) : romRead (s.withPorts p) a = romRead s a := by rfl

@[simp] theorem offerRequest_config (req : Request) : (s.offerRequest req).config = s.config := by rfl
@[simp] theorem offerRequest_phase (req : Request) : (s.offerRequest req).phase = .idle := by rfl
@[simp] theorem offerRequest_pceX (req : Request) : (s.offerRequest req).pceX = s.pceX := by rfl
@[simp] theorem offerRequest_pceAcc (req : Request) : (s.offerRequest req).pceAcc = s.pceAcc := by rfl
@[simp] theorem offerRequest_rspResultQ (req : Request) : (s.offerRequest req).rspResultQ = s.rspResultQ := by rfl
@[simp] theorem offerRequest_rspErrQ (req : Request) : (s.offerRequest req).rspErrQ = s.rspErrQ := by rfl
@[simp] theorem offerRequest_buildIdx (req : Request) : (s.offerRequest req).buildIdx = s.buildIdx := by rfl
@[simp] theorem offerRequest_rom (req : Request) : (s.offerRequest req).rom = s.rom := by rfl
@[simp] theorem offerRequest_fault (req : Request) : (s.offerRequest req).fault = s.fault := by rfl
@[simp] theorem offerRequest_epoch (req : Request) : (s.offerRequest req).epoch = s.epoch := by rfl
@[simp] theorem offerRequest_inputs (req : Request) : (s.offerRequest req).inputs = { s.ports with rst := false, reqValid := true, reqOp := opField req, reqX := operandField req } :: s.inputs.tail := by rfl
@[simp] theorem offerRequest_received (req : Request) : (s.offerRequest req).received = s.received := by rfl
@[simp] theorem offerRequest_romRead (req : Request) (a : Chunk) : romRead (s.offerRequest req) a = romRead s a := by rfl

@[simp] theorem resetStep_config : s.resetStep.config = s.config := by
  unfold State.resetStep; split <;> rfl
@[simp] theorem resetStep_pceX : s.resetStep.pceX = Config.pceXAfterReset (s.epoch + 1) := by
  unfold State.resetStep; split <;> rfl
@[simp] theorem resetStep_pceAcc : s.resetStep.pceAcc = Config.pceAccAfterReset (s.epoch + 1) := by
  unfold State.resetStep; split <;> rfl
@[simp] theorem resetStep_rspResultQ : s.resetStep.rspResultQ = Config.rspResultAfterReset (s.epoch + 1) := by
  unfold State.resetStep; split <;> rfl
@[simp] theorem resetStep_rspErrQ : s.resetStep.rspErrQ = Config.rspErrAfterReset (s.epoch + 1) := by
  unfold State.resetStep; split <;> rfl
@[simp] theorem resetStep_fault : s.resetStep.fault = s.fault := by
  unfold State.resetStep; split <;> rfl
@[simp] theorem resetStep_epoch : s.resetStep.epoch = s.epoch + 1 := by
  unfold State.resetStep; split <;> rfl
@[simp] theorem resetStep_inputs : s.resetStep.inputs = s.inputs := by
  unfold State.resetStep; split <;> rfl
@[simp] theorem resetStep_received : s.resetStep.received = s.received := by
  unfold State.resetStep; split <;> rfl
@[simp] theorem resetStep_phase : s.resetStep.phase = if s.config.romPreloaded then .idle else .build := by
  unfold State.resetStep; split <;> simp [*]
@[simp] theorem resetStep_buildIdx : s.resetStep.buildIdx = if s.config.romPreloaded then s.buildIdx else 0 := by
  unfold State.resetStep; split <;> simp [*]
@[simp] theorem resetStep_rom : s.resetStep.rom = if s.config.romPreloaded then s.rom else [] := by
  unfold State.resetStep; split <;> simp [*]

@[simp] theorem altStep_config : (altStep s).config = s.config := by
  unfold altStep; split <;> rfl
@[simp] theorem altStep_buildIdx : (altStep s).buildIdx = s.buildIdx := by
  unfold altStep; split <;> rfl
@[simp] theorem altStep_rom : (altStep s).rom = s.rom := by
  unfold altStep; split <;> rfl
@[simp] theorem altStep_fault : (altStep s).fault = s.fault := by
  unfold altStep; split <;> rfl
@[simp] theorem altStep_epoch : (altStep s).epoch = s.epoch := by
  unfold altStep; split <;> rfl
@[simp] theorem altStep_inputs : (altStep s).inputs = s.inputs := by
  unfold altStep; split <;> rfl
@[simp] theorem altStep_received : (altStep s).received = s.received := by
  unfold altStep; split <;> rfl
@[simp] theorem altStep_phase : (altStep s).phase = if s.pceX ≠ 0 then s.phase else .resp := by
  unfold altStep; split <;> rfl
@[simp] theorem altStep_pceX : (altStep s).pceX = if s.pceX ≠ 0 then clearLowest s.pceX else s.pceX := by
  unfold altStep; split <;> rfl
@[simp] theorem altStep_pceAcc : (altStep s).pceAcc = if s.pceX ≠ 0 then s.pceAcc ^^^ 1 else s.pceAcc := by
  unfold altStep; split <;> rfl
@[simp] theorem altStep_rspResultQ : (altStep s).rspResultQ = if s.pceX ≠ 0 then s.rspResultQ else zext16 s.pceAcc := by
  unfold altStep; split <;> rfl
@[simp] theorem altStep_rspErrQ : (altStep s).rspErrQ = if s.pceX ≠ 0 then s.rspErrQ else 0 := by
  unfold altStep; split <;> rfl

/-- A ROM read depends on the parameter, the free-value counter and the list of written entries alone. -/
theorem romRead_congr {s t : State} (hc : s.config = t.config) (he : s.epoch = t.epoch) (hr : s.rom = t.rom)
    (a : Chunk) : romRead s a = romRead t a := by
  simp only [romRead, hc, he, hr]

@[simp] theorem altStep_romRead (a : Chunk) : romRead (altStep s) a = romRead s a :=
  romRead_congr (by simp) (by simp) (by simp) a

/-- A mask ROM reads as the Parity Lookup Table (spec/20_memory.md R53, spec/42_lookup.md R153). -/
theorem romRead_preloaded {s : State} (h : s.config.romPreloaded = true) (a : Chunk) :
    romRead s a = tableEntry a := by
  simp [romRead, h]

/-- A built ROM is read from the list of written entries. -/
theorem romRead_buildMode {s : State} (h : s.config.romPreloaded = false) (a : Chunk) :
    romRead s a = Memory.read s.epoch s.rom a := by
  simp [romRead, h]

@[simp] theorem resetFor_rom (c : Config) : (State.resetFor c).rom = [] := by rfl
@[simp] theorem resetFor_config (c : Config) : (State.resetFor c).config = c := by rfl
@[simp] theorem reset_config : State.reset.config = Config.standard := by rfl

end Sys2Proof.Machine
end

