-- ==== Sys2Proof/Laws/Ops.lean ====
section
/-! SUPPORT. What each shared operation and the step function can do, said once. -/

namespace Sys2Proof.Machine

open Sys2Proof

@[simp] theorem accept_idle {s t : State} (h : s.phase = .idle) : accept s t = .next t := by simp [accept, h]

@[simp] theorem accept_busy {s t : State} (h : s.phase ≠ .idle) : accept s t = .next s := by
  unfold accept; split <;> simp_all

/-- All that accepting can do: the request takes effect in IDLE, and nothing happens in another phase. -/
theorem accept_next {s t u : State} (h : accept s t = .next u) :
    (s.phase = .idle ∧ u = t) ∨ (s.phase ≠ .idle ∧ u = s) := by
  by_cases hp : s.phase = .idle
  · rw [accept_idle hp] at h; cases h; exact .inl ⟨hp, rfl⟩
  · rw [accept_busy hp] at h; cases h; exact .inr ⟨hp, rfl⟩

/-- The state after an operation is accepted. -/
def State.accepted (s : State) (i : Instr) : State :=
  match i with
  | .parity x => s.respond 0 (zext16 (fold x))
  | .parityAlt x => s.startPce x
  | .parityLookup x => s.respond 0 (lookup s x)
  | .reserved _ => s.raiseReservedOp

/-- Every operation is an acceptance of its own effect. -/
theorem exec_eq_accept (i : Instr) (s : State) : exec i s = accept s (s.accepted i) := by cases i <;> rfl

@[simp] theorem romWrite_romRead_self {s : State} (h : s.config.romPreloaded = false) (a : Chunk) (v : Entry) :
    romRead (romWrite s a v) a = v := by
  simp [romRead, h]

theorem romWrite_romRead_ne (s : State) {a b : Chunk} (v : Entry) (hab : b ≠ a) :
    romRead (romWrite s a v) b = romRead s b := by
  unfold romRead; split <;> simp_all [Memory.read_write_ne]

/-- A step in which a request transfers is that operation. -/
theorem step_of_accept {s : State} {i : Instr} (h : enabledEvent s.ports s = .accept i) : step s = exec i s.advance := by
  simp [step, h]

/-- Every other step is the effect of its event. -/
theorem step_of_internal {s : State} (h : ∀ i, enabledEvent s.ports s ≠ .accept i) :
    step s = .next (s.advance.internal (enabledEvent s.ports s)) := by
  unfold step
  split
  · rename_i i hi; exact absurd hi (h i)
  · rfl

/-- All that a step can do, by the enabled event. -/
theorem step_next {s t : State} (h : step s = .next t) :
    (∃ i, enabledEvent s.ports s = .accept i ∧ exec i s.advance = .next t) ∨
    ((∀ i, enabledEvent s.ports s ≠ .accept i) ∧ t = s.advance.internal (enabledEvent s.ports s)) := by
  by_cases ha : ∀ i, enabledEvent s.ports s ≠ .accept i
  case neg =>
    obtain ⟨i, hi⟩ := not_forall_not.mp ha
    exact .inl ⟨i, hi, step_of_accept hi ▸ h⟩
  case pos =>
    rw [step_of_internal ha] at h
    cases h
    exact .inr ⟨ha, rfl⟩

/-- Every step spends one entry of the schedule. -/
theorem step_inputs {s t : State} (h : step s = .next t) : t.inputs = s.inputs.tail := by
  rcases step_next h with ⟨i, _, he⟩ | ⟨_, rfl⟩
  · rw [exec_eq_accept] at he
    rcases accept_next he with ⟨_, rfl⟩ | ⟨_, rfl⟩
    · cases i <;> simp [State.accepted]
    · simp
  · cases enabledEvent s.ports s <;> simp [State.internal]

/-- All that the enabling conditions can say. -/
theorem enabledEvent_cases (p : Inputs) (s : State) :
    (p.rst = true ∧ enabledEvent p s = .reset) ∨
    (p.rst = false ∧ s.phase = .build ∧ enabledEvent p s = .buildStep) ∨
    (p.rst = false ∧ s.phase = .idle ∧ p.reqValid = true ∧ enabledEvent p s = .accept p.instr) ∨
    (p.rst = false ∧ s.phase = .idle ∧ p.reqValid = false ∧ enabledEvent p s = .wait) ∨
    (p.rst = false ∧ s.phase = .altLoop ∧ enabledEvent p s = .altStep) ∨
    (p.rst = false ∧ s.phase = .resp ∧ p.rspReady = true ∧ enabledEvent p s = .consume) ∨
    (p.rst = false ∧ s.phase = .resp ∧ p.rspReady = false ∧ enabledEvent p s = .wait) := by
  cases hr : p.rst <;> cases hp : s.phase <;> cases hv : p.reqValid <;> cases hq : p.rspReady <;>
    simp [enabledEvent, hr, hp, hv, hq]

end Sys2Proof.Machine
end

