-- ==== Sys2Proof/Laws/PerInstr.lean ====
section
/-! SUPPORT. The encoded fields of each operation, said constructor by constructor. -/

namespace Sys2Proof.Laws

open Sys2Proof

/-- The bits of a request word: the operand below bit 64, the operation select from there (spec/30_encoding.md R70). -/
theorem requestWord_getLsbD (op : Opcode) (x : Word) (k : Nat) :
    (requestWord op x).getLsbD k = if k < 64 then x.getLsbD k else op.getLsbD (k - 64) :=
  BitVec.getLsbD_append

/-- The two fields of a request word are the operation select and the operand it was made from (R70). -/
theorem requestWord_fields (op : Opcode) (x : Word) :
    opField (requestWord op x) = op ∧ operandField (requestWord op x) = x := by
  constructor
  · apply BitVec.eq_of_getLsbD_eq
    intro k hk
    simp [opField, requestWord_getLsbD, hk]
  · apply BitVec.eq_of_getLsbD_eq
    intro k hk
    simp [operandField, requestWord_getLsbD, hk]

/-- The encoding of an operation carries its operation select and its whole operand (R70, R71, R73). -/
def EncodedFields.Statement (i : Instr) : Prop :=
  opField (encode i) = i.op ∧ operandField (encode i) = i.operand

theorem EncodedFields.parity (x : Word) : EncodedFields.Statement (.parity x) := requestWord_fields _ _

theorem EncodedFields.parityAlt (x : Word) : EncodedFields.Statement (.parityAlt x) := requestWord_fields _ _

theorem EncodedFields.parityLookup (x : Word) : EncodedFields.Statement (.parityLookup x) := requestWord_fields _ _

theorem EncodedFields.reserved (x : Word) : EncodedFields.Statement (.reserved x) := requestWord_fields _ _

end Sys2Proof.Laws
end

