-- ==== Sys2Proof/Tests/Slice0.lean ====
section
/-! SUPPORT. Small tests with expected values from spec/95_test_vectors.md, and a witness for the hypotheses of each statement. -/

namespace Sys2Proof.Tests

open Sys2Proof Sys2Proof.Machine

/-- The state of a step's outcome. -/
def after (o : Host.Outcome State Fault Refusal) : Option State :=
  match o with
  | .next s => some s
  | .fault _ => none
  | .refused _ => none

/-- A block with a preloaded ROM in a phase, with port levels scheduled. -/
def at' (ph : Phase) (ps : List Inputs) : State := { State.reset with phase := ph, inputs := ps }

/-- A block in build mode at a build index, with port levels scheduled. -/
def building (k : BuildIndex) (ps : List Inputs) : State :=
  { State.resetFor Config.buildMode with buildIdx := k, inputs := ps }

/-- Port levels that offer an operation. -/
def offer (i : Instr) : Inputs := Inputs.offering (encode i)

/-! ### Well-formedness and decoding -/

theorem test_wf_refuses_wide_request : isRequestNumber (2 ^ 66) = false := by decide
theorem test_wf_accepts_widest_request : isRequestNumber (2 ^ 66 - 1) = true := by decide
theorem test_wf_refuses_wide_operand : isOperandLiteral (2 ^ 64) = false := by decide
theorem test_wf_accepts_widest_operand : isOperandLiteral (2 ^ 64 - 1) = true := by decide
theorem test_wf_holds_of_every_operation : (Instr.reserved 0xFFFFFFFFFFFFFFFF).wellFormed = true := by decide

/-- VE1. -/
theorem test_decode_parity : decodeTableWord 72 0x00000000000000007 = some (.parity 7) := by decide
/-- VE8. -/
theorem test_decode_parityAlt : decodeTableWord 72 0x18000000000000000 = some (.parityAlt 0x8000000000000000) := by decide
/-- VE7. -/
theorem test_decode_parityLookup : decodeTableWord 72 0x2FFFFFFFFFFFFFFFF = some (.parityLookup 0xFFFFFFFFFFFFFFFF) := by decide
/-- VE4. -/
theorem test_decode_reserved : decodeTableWord 72 0x30000000000000007 = some (.reserved 7) := by decide
theorem test_decode_refuses_padding : decodeTableWord 72 0x40000000000000007 = none := by decide
/-- The word of program P1's last line, spec/95_test_vectors.md section 3. -/
theorem test_encode_parityLookup : encode (.parityLookup 0x8000000000000001) = 0x28000000000000001#66 := by decide
/-- A decimal operand, a comment and a reset line (R76). -/
theorem test_parse_decimal : parseLine ['P', 'A', 'R', 'I', 'T', 'Y', ' ', '1', '2', ' ', ';', 'x'] =
    .ok (.transaction (.parity 12)) := by decide
theorem test_parse_reset : parseLine ['R', 'E', 'S', 'E', 'T'] = .ok .reset := by decide
theorem test_parse_case_sensitive : parseLine ['p', 'a', 'r', 'i', 't', 'y', ' ', '1'] = .error .unknownMnemonic := by decide

/-- The parameters of R5 fit together. -/
theorem test_parameters : Config.chunkCount * Config.chunkBits = Config.wordBits ∧ 2 ^ Config.chunkBits = Config.romDepth := by
  decide

/-! ### Datapaths -/

/-- VF19: the stages of FOLD. -/
theorem test_fold_stages : (List.range 7).map (fun j => foldAfter j 0xDEADBEEFCAFEBABE) =
    [0xDEADBEEFCAFEBABE, 0xDEADBEEF14530451, 0xDEAD6042AABC1002, 0xDE73CD22E816AC12, 0xD394F1F0C697C6D3,
      0xE771CD8CF7323767, 0x94C92B4A8CAB2CD4] := by decide
/-- VF18. -/
theorem test_fold_odd : fold 0x7FFFFFFFFFFFFFFF = 1 := by decide
/-- The PCE trace of 0x8421. -/
theorem test_clearLowest : clearLowest 0x8421 = 0x8420 ∧ clearLowest 0x8000 = 0 := by decide
/-- Entries of the table in spec/95_test_vectors.md section 2.3. -/
theorem test_table : [0x8421, 0xBABE, 0xBEEF, 0xFFFF].map tableEntry = [0, 1, 1, 0] := by decide
/-- VL19: the four ROM addresses. -/
theorem test_chunks : (List.range 4).map (fun k => chunk k 0xDEADBEEFCAFEBABE) = [0xBABE, 0xCAFE, 0xBEEF, 0xDEAD] := by decide

/-! ### One step -/

/-- VT5. -/
theorem test_step_parity : (after (step (at' .idle [offer (.parity 3)]))).map rspPort =
    some (some { err := 0, result := 0 }) := by decide
/-- PARITY of bit 63 alone (VF4). -/
theorem test_exec_parity : (after (exec (.parity 0x8000000000000000) State.reset)).map (fun t => (t.phase, t.rspResultQ)) =
    some (.resp, 1) := by decide
/-- P1, step 4. -/
theorem test_step_parityAlt : (after (step (at' .idle [offer (.parityAlt 7)]))).map (fun t => (t.phase, t.pceX, t.pceAcc)) =
    some (.altLoop, 7, 0) := by decide
/-- VT8: an offered request is not accepted by an ALT_STEP. -/
theorem test_altStep : (after (step { at' .altLoop [offer (.parity 1)] with pceX := 0xF8, pceAcc := 1 })).map
    (fun t => (t.phase, t.pceX, t.pceAcc)) = some (.altLoop, 0xF0, 0) := by decide
/-- P1, step 10: two entries of 1 cancel. -/
theorem test_step_parityLookup : (after (step (at' .idle [offer (.parityLookup 0x8000000000000001)]))).map rspPort =
    some (some { err := 0, result := 0 }) := by decide
/-- VL13. -/
theorem test_exec_parityLookup : (after (exec (.parityLookup 0x0001000100010000) State.reset)).map rspPort =
    some (some { err := 0, result := 1 }) := by decide
/-- VE4. -/
theorem test_step_reserved : (after (step (at' .idle [offer (.reserved 7)]))).map (fun t => (rspPort t, t.fault)) =
    some (some { err := 1, result := 0 }, true) := by decide
/-- VT7. -/
theorem test_consume : (after (step { at' .resp [Inputs.taking] with rspResultQ := 1 })).map (fun t => (t.phase, t.received)) =
    some (.idle, [{ err := 0, result := 1 }]) := by decide
/-- VT6. -/
theorem test_response_held : after (step { at' .resp [] with rspResultQ := 1 }) = some { at' .resp [] with rspResultQ := 1 } := by
  decide
/-- VT3. -/
theorem test_build_before_last : (after (step (building 65534 []))).map (fun t => (t.phase, t.buildIdx)) = some (.build, 65535) := by
  decide
/-- VT4. -/
theorem test_build_last : (after (step (building 65535 []))).map (fun t => (t.phase, t.buildIdx)) = some (.idle, 65536) := by decide
/-- VT9. -/
theorem test_reset_in_loop : (after (step (at' .altLoop [Inputs.resetting]))).map (fun t => (t.phase, t.received)) =
    some (.idle, []) := by decide
/-- VT10. -/
theorem test_reset_in_build : (after (step (building 1000 [Inputs.resetting]))).map (fun t => (t.phase, t.buildIdx)) =
    some (.build, 0) := by decide
/-- The request placed by withFetchWord is the one the next step runs. -/
theorem test_fetchWord : (after (step (State.reset.withFetchWord 72 0x10000000000000007))).map (fun t => (t.phase, t.pceX)) =
    some (.altLoop, 7) := by decide

/-! ### The hypotheses of the statements can be met -/

/-- A block at the start of a build, with any schedule, has the invariant. -/
theorem building_inv (ps : List Inputs) : (building 0 ps).Inv where
  romForm := rfl
  preloaded h := by cases h
  building _ := ⟨(by decide : (0 : BuildIndex).toNat < Config.romDepth), fun _ h => absurd h (Nat.not_lt_zero _)⟩
  idxRange _ := (by decide : (0 : BuildIndex).toNat ≤ Config.romDepth)
  built h := absurd rfl h
  response h := by cases h
  received r h := by cases h

/-- An idle block with a preloaded ROM and any schedule has the invariant. -/
theorem idle_inv (ps : List Inputs) : (at' .idle ps).Inv where
  romForm := rfl
  preloaded _ := ⟨rfl, fun h => by cases h⟩
  building h := by cases h
  idxRange h := by cases h
  built _ a := rfl
  response h := by cases h
  received r h := by cases h

theorem witness_DecodeEncodeAgree : (Instr.parity 5).wellFormed = true ∧
    decodeTableWord 72 0x20000000000000007 = some (.parityLookup 7) := by decide

theorem witness_NumberRefused : (2 ^ 66 - 1 < 2 ^ 66) ∧ (2 ^ 66 ≤ 2 ^ 66) := by decide

theorem witness_StepRunsTheDecodedRequest : ∃ s : State, s.ports.rst = false ∧ s.phase = .idle ∧ s.ports.reqValid = true :=
  ⟨at' .idle [offer (.parity 3)], by decide⟩

theorem witness_FetchWordRunsNext : ∃ (nbits w : Nat) (i : Instr), decodeTableWord nbits w = some i :=
  ⟨72, 7, .parity 7, by decide⟩

/-- One state for each clause of the relation. -/
theorem witness_StepFollowsTheRelation :
    (at' .resp [Inputs.resetting]).ports.rst = true ∧
    ((building 0 []).ports.rst = false ∧ (building 0 []).phase = .build) ∧
    ((at' .idle [offer (.parity 3)]).ports.rst = false ∧ (at' .idle [offer (.parity 3)]).ports.reqValid = true) ∧
    ((at' .idle []).ports.rst = false ∧ (at' .idle []).ports.reqValid = false) ∧
    ((at' .altLoop []).ports.rst = false ∧ (at' .altLoop []).phase = .altLoop) ∧
    ((at' .resp [Inputs.taking]).ports.rst = false ∧ (at' .resp [Inputs.taking]).ports.rspReady = true) ∧
    ((at' .resp []).ports.rst = false ∧ (at' .resp []).ports.rspReady = false) := by decide

/-- For the statements about an operation in an idle block, with a complete table where one is asked for. -/
theorem witness_idle_complete : ∃ s : State, s.phase = .idle ∧ s.RomComplete :=
  ⟨State.reset, rfl, fun _ => rfl⟩

theorem witness_OperationsFrame : ∃ s t : State, exec (.parity 1) s = .next t ∧ t ≠ s :=
  ⟨State.reset, _, rfl, by decide⟩

theorem witness_BusyBlockIgnoresRequests : (∃ s : State, s.phase ≠ .idle) ∧
    ∃ (s : State) (p q : Inputs), s.inputs = p :: [] ∧ reqReady p s = false ∧ q.rst = p.rst ∧ q.rspReady = p.rspReady ∧ q ≠ p :=
  ⟨⟨at' .resp [], by decide⟩, at' .altLoop [offer (.parity 1)], offer (.parity 1), offer (.reserved 2), by decide⟩

theorem witness_FoldStages : (6 ≤ 6 ∧ 0 < 64 / 2 ^ 6) ∧ (0 ≤ 6 ∧ 63 < 64 / 2 ^ 0) := by decide

/-- The lowest and the highest bit as lowest set bit. -/
theorem witness_ClearLowestSetBit :
    ((1 : Word).getLsbD 0 = true ∧ ∀ i < 0, (1 : Word).getLsbD i = false) ∧
    ((0x8000000000000000 : Word).getLsbD 63 = true ∧ ∀ i < 63, (0x8000000000000000 : Word).getLsbD i = false) ∧
    State.reset.pceX = 0 := by decide

theorem witness_AltStepEffect :
    ((at' .altLoop []).phase = .altLoop ∧ (at' .altLoop []).pceX = 0) ∧
    ({ at' .altLoop [] with pceX := 1 }.phase = .altLoop ∧ { at' .altLoop [] with pceX := 1 }.pceX ≠ 0) := by decide

theorem witness_AltStepCount : ∃ s t : State, s.phase = .idle ∧ exec (.parityAlt 7) s = .next t ∧ t.phase = .altLoop :=
  ⟨State.reset, _, rfl, rfl, rfl⟩

theorem witness_LoopEndsWithParity : ∃ s : State, s.phase = .altLoop ∧ s.pceX = 7 ∧
    ∀ p ∈ s.inputs.take (popcount s.pceX + 1), p.rst = false :=
  ⟨{ at' .altLoop [offer (.parity 1)] with pceX := 7 }, by decide⟩

theorem witness_ChunksPartition : (3 < 4 ∧ 15 < 16) ∧ (0 < 4 ∧ 0 < 16) := by decide

theorem witness_lookup_outside_build : ∃ s : State, s.Inv ∧ s.phase ≠ .build ∧ s.phase = .idle :=
  ⟨at' .idle [], idle_inv [], by decide⟩

/-- The first index, the last but one and the last. -/
theorem witness_BuildStepWritesOneEntry :
    ((building 0 []).config.romPreloaded = false ∧ (building 0 []).phase = .build ∧ (building 0 []).buildIdx.toNat = (0 : Chunk).toNat) ∧
    (building 65534 []).buildIdx.toNat = (0xFFFE : Chunk).toNat ∧ (building 65535 []).buildIdx.toNat = (0xFFFF : Chunk).toNat := by
  decide

theorem witness_BuildFillsTheTable : ∃ s : State, s.config.romPreloaded = false ∧ s.phase = .build ∧ s.buildIdx = 0 ∧
    ∀ p ∈ s.inputs.take 65536, p.rst = false :=
  ⟨building 0 [], rfl, rfl, rfl, fun p h => by simp [building] at h⟩

/-- Both modes have a start state; the preloaded one is outside BUILD. -/
theorem witness_starts : State.reset.IsStart Config.standard ∧ (building 0 []).IsStart Config.buildMode :=
  ⟨⟨rfl, rfl, nofun, rfl, rfl, rfl⟩, ⟨rfl, rfl, fun _ => rfl, rfl, rfl, rfl⟩⟩

theorem witness_RomHoldsTheTable : Reachable Config.standard State.reset ∧ State.reset.phase ≠ .build :=
  ⟨.start _ witness_starts.1, by decide⟩

theorem witness_FlippedAddressBit : (0 < 16) ∧ (15 < 16) := by decide

theorem witness_AcceptNeedsTheTable : ∃ s : State, Reachable Config.standard s ∧ enabledEvent s.ports s = .accept (.parity 3) :=
  ⟨at' .idle [offer (.parity 3)], .start _ ⟨rfl, rfl, nofun, rfl, rfl, rfl⟩, by decide⟩

theorem witness_ResponseHeldUntilTaken :
    ((at' .resp [Inputs.taking]).phase = .resp ∧ (at' .resp [Inputs.taking]).ports.rst = false ∧
      (at' .resp [Inputs.taking]).ports.rspReady = true) ∧
    ∀ p ∈ (at' .resp [offer (.parity 1), Inputs.taking]).inputs.take 1, p.rst = false ∧ p.rspReady = false := by decide

theorem witness_InFlightUntilConsumed :
    (enabledEvent (offer (.parity 3)) (at' .idle [offer (.parity 3)]) = .accept (.parity 3)) ∧
    (enabledEvent Inputs.taking (at' .resp [Inputs.taking]) = .consume) ∧
    (enabledEvent Inputs.quiet (at' .altLoop []) ≠ .consume) ∧ (enabledEvent Inputs.quiet (at' .resp []) ≠ .consume) := by decide

/-- A PARITY_ALT transaction with the shortest wait, during which the host offers another request. -/
theorem witness_TransactionAnswered : ∃ (s : State) (i : Instr) (o take : Inputs) (waits : List Inputs),
    s.Inv ∧ s.phase = .idle ∧ s.inputs = o :: (waits ++ take :: []) ∧ o.rst = false ∧ o.reqValid = true ∧ o.instr = i ∧
    (∀ p ∈ waits, p.rst = false ∧ p.rspReady = false) ∧ blockSteps i ≤ waits.length ∧ take.rst = false ∧ take.rspReady = true ∧
    i = .parityAlt 1 :=
  ⟨at' .idle [offer (.parityAlt 1), offer (.parity 1), Inputs.quiet, Inputs.taking], .parityAlt 1, offer (.parityAlt 1), Inputs.taking,
    [offer (.parity 1), Inputs.quiet], idle_inv _, by decide⟩

theorem witness_ReadyHostStepCounts : ∃ (s : State) (i : Instr) (o : Inputs) (ready : List Inputs),
    s.Inv ∧ s.phase = .idle ∧ s.inputs = o :: (ready ++ []) ∧ o.rst = false ∧ o.reqValid = true ∧ o.instr = i ∧
    (∀ p ∈ ready, p.rst = false ∧ p.rspReady = true) ∧ ready.length = blockSteps i + 1 ∧ i = .reserved 1 :=
  ⟨at' .idle [offer (.reserved 1), Inputs.taking], .reserved 1, offer (.reserved 1), [Inputs.taking], idle_inv _, by decide⟩

/-- A line that starts in an idle block, and one that starts with the whole build to wait for, each with the least bound. -/
theorem witness_ScriptLineIsOneTransaction :
    ((at' .idle []).Inv ∧ (at' .idle []).phase = .idle ∧ buildStepsLeft (at' .idle []) + 1 ≤ 5 ∧ blockSteps (.parityAlt 7) + 1 ≤ 5) ∧
    ((building 0 []).Inv ∧ (building 0 []).phase = .build ∧ buildStepsLeft (building 0 []) + 1 ≤ 65537 ∧
      blockSteps (.parityLookup 7) + 1 ≤ 65537) :=
  ⟨⟨idle_inv [], by decide⟩, ⟨building_inv [], by decide⟩⟩

/-- A request offered at the last BUILD_STEP waits, and is accepted by the next step (R76): three steps and the response is received. -/
theorem test_line_waits_for_build : (after (runLine 2 (.transaction (.parity 7)) (building 65535 []))).map
    (fun t => (t.phase, t.received)) = some (.idle, [{ err := 0, result := 1 }]) := by decide

theorem witness_ScriptObservation : ∃ (s : State) (bound : Nat), s.Inv ∧ s.phase = .idle ∧ s.inputs = [] ∧ 66 ≤ bound :=
  ⟨at' .idle [], 66, idle_inv [], by decide⟩

/-- A request held while the response before it is taken, after which the block is ready for it. -/
theorem witness_HeldRequestIsTheOnePerformed : ∃ s t : State, s.ports.reqValid = true ∧
    (∀ (k : Nat) (u : State), k < 1 → run k s = .next u → reqReady u.ports u = false ∧ u.hostHoldsRequest) ∧ run 1 s = .next t ∧
    reqReady t.ports t = true := by
  refine ⟨at' .resp [{ offer (.parity 1) with rspReady := true }, offer (.parity 1)], _, rfl, fun k u hk hu => ?_, rfl, rfl⟩
  obtain rfl : k = 0 := by omega
  cases hu
  exact ⟨rfl, fun _ _ => ⟨rfl, rfl⟩⟩

/-- RESET in both modes, from a state in flight and from a build. -/
theorem witness_reset : ((at' .altLoop [Inputs.resetting]).ports.rst = true ∧ (at' .altLoop []).config.romPreloaded = true) ∧
    ((building 1000 [Inputs.resetting]).ports.rst = true ∧ (building 1000 []).config.romPreloaded = false) := by decide

theorem witness_ResetMakesReady : ∃ s : State, s.ports.rst = true ∧ s.config.romPreloaded = false ∧
    ∀ p ∈ s.inputs.tail.take 65536, p.rst = false :=
  ⟨building 1000 [Inputs.resetting], rfl, rfl, fun p h => by simp [building] at h⟩

theorem witness_OutputsFollowState : rspValid (at' .resp []) = true ∧ rspValid (at' .idle []) = false := by decide

theorem witness_FaultOnlyFromReserved : ∃ s t : State, step s = .next t ∧ s.fault = false ∧ t.fault = true :=
  ⟨at' .idle [offer (.reserved 7)], _, rfl, by decide⟩

/-- Each phase is entered from another by some step. -/
theorem witness_PhaseEnteredBy :
    (after (step (building 65535 []))).map (·.phase) = some .idle ∧
    (after (step { building 0 [Inputs.resetting] with phase := .idle })).map (·.phase) = some .build ∧
    (after (step (at' .idle [offer (.parityAlt 7)]))).map (·.phase) = some .altLoop ∧
    (after (step (at' .altLoop []))).map (·.phase) = some .resp := by decide

/-- A block in BUILD whose next entry holds another value than the build writes. -/
def wrongEntry : State := { building 1 [] with rom := [(1, 7)] }

theorem witness_StateWrittenOnlyBy : ∃ s t : State, step s = .next t ∧ ∃ a : Chunk, romRead t a ≠ romRead s a := by
  refine ⟨wrongEntry, buildStep wrongEntry.advance, rfl, buildAddress wrongEntry.advance, ?_⟩
  have written : romRead (buildStep wrongEntry.advance) (buildAddress wrongEntry.advance) =
      zext16 (fold (zext64 (buildAddress wrongEntry.advance))) := romWrite_romRead_self (s := wrongEntry.advance) rfl _ _
  rw [written]
  decide

theorem witness_InvariantKeptByEveryStep : ∃ s t : State, s.Inv ∧ step s = .next t ∧ t.phase = .resp :=
  ⟨at' .idle [offer (.parityLookup 3)], _, idle_inv _, rfl, by decide⟩

/-- Two states that differ in a register that holds no value, and both take a step. -/
theorem witness_UnwrittenStateNeverRead : ∃ s t s' t' : State, s.LiveEq t ∧ s ≠ t ∧ step s = .next s' ∧ step t = .next t' :=
  ⟨at' .idle [offer (.parity 3)], { at' .idle [offer (.parity 3)] with pceX := 9, rspResultQ := 5 }, _, _,
    ⟨rfl, rfl, rfl, rfl, rfl, nofun, nofun, nofun, nofun, fun _ _ => rfl⟩,
    by decide, rfl, rfl⟩

end Sys2Proof.Tests
end

/-! Proofs about the operand's chunks (spec/00_scope.md R9, spec/42_lookup.md R140). -/

namespace Sys2Proof.Machine

open Sys2Proof

/-- A chunk reads the operand from bit `16k` on, and holds nothing above its own 16 bits (R9). -/
theorem chunk_getLsbD (k : Nat) (x : Word) (i : Nat) :
    (chunk k x).getLsbD i = (decide (i < 16) && x.getLsbD (16 * k + i)) :=
  BitVec.getLsbD_extractLsb' ..

/-- An operand bit, found in the chunk whose range it lies in: the quotient by 16 names the chunk, the remainder the bit. -/
theorem getLsbD_eq_chunk_getLsbD (x : Word) (i : Nat) :
    x.getLsbD i = (chunk (i / 16) x).getLsbD (i % 16) := by
  have inChunk : i % 16 < 16 := Nat.mod_lt i (by decide)
  rw [chunk_getLsbD, decide_eq_true inChunk, Bool.true_and, Nat.div_add_mod]

/-- A bit of the concatenation is a bit of the chunk whose range it lies in, as for the operand itself. -/
theorem chunks_append_getLsbD (x : Word) {i : Nat} (hi : i < 64) :
    (chunk 3 x ++ chunk 2 x ++ chunk 1 x ++ chunk 0 x).getLsbD i = (chunk (i / 16) x).getLsbD (i % 16) := by
  simp only [BitVec.getLsbD_append]
  split_ifs with inChunk0 inChunk1 inChunk2
  · rw [show i / 16 = 0 by omega, show i % 16 = i by omega]
  · rw [show i / 16 = 1 by omega, show i % 16 = i - 16 by omega]
  · rw [show i / 16 = 2 by omega, show i % 16 = i - 16 - 16 by omega]
  · rw [show i / 16 = 3 by omega, show i % 16 = i - 16 - 16 - 16 by omega]

/-- The four chunks, highest first, are the operand (R140). -/
theorem chunks_append (x : Word) : chunk 3 x ++ chunk 2 x ++ chunk 1 x ++ chunk 0 x = x :=
  BitVec.eq_of_getLsbD_eq fun i hi =>
    (chunks_append_getLsbD x hi).trans (getLsbD_eq_chunk_getLsbD x i).symm

/-- Settles O25: a chunk's bits by the range it is cut from, and the concatenation bit by bit. -/
theorem chunksPartitionTheOperand : Obligations.ChunksPartitionTheOperand := by
  intro x
  refine ⟨fun k i _ hi => ?_, (chunks_append x).symm⟩
  rw [chunk_getLsbD, decide_eq_true hi, Bool.true_and]

end Sys2Proof.Machine

/-! What one step does, said once by the enabled event (spec/43_transactions.md R176), and the fields that accepting an operation
leaves or writes (spec/10_state.md R40). -/

namespace Sys2Proof.Machine

open Sys2Proof

/-- The effect of each step of R176, with the phase it is enabled in. -/
inductive StepEffect (s : State) : Event → State → Prop
  | reset : StepEffect s .reset s.advance.resetStep
  | buildStep (inBuild : s.phase = .build) : StepEffect s .buildStep (buildStep s.advance)
  | accept (i : Instr) (inIdle : s.phase = .idle) : StepEffect s (.accept i) (s.advance.accepted i)
  | altStep (inLoop : s.phase = .altLoop) : StepEffect s .altStep (altStep s.advance)
  | consume (inResp : s.phase = .resp) : StepEffect s .consume s.advance.consume
  | wait (waiting : s.phase = .idle ∨ s.phase = .resp) : StepEffect s .wait s.advance

/-- In IDLE an operation takes effect. -/
theorem exec_of_idle {s : State} (i : Instr) (inIdle : s.phase = .idle) : exec i s = .next (s.accepted i) := by
  rw [exec_eq_accept, accept_idle inIdle]

/-- Every step has the effect of the event that the ports and the phase enable. -/
theorem step_effect {s t : State} (h : step s = .next t) : StepEffect s (enabledEvent s.ports s) t := by
  unfold step at h
  rcases enabledEvent_cases s.ports s with ⟨_, he⟩ | ⟨_, hp, he⟩ | ⟨_, hp, _, he⟩ | ⟨_, hp, _, he⟩ | ⟨_, hp, he⟩ |
    ⟨_, hp, _, he⟩ | ⟨_, hp, _, he⟩ <;> rw [he] at h ⊢
  · cases h; exact .reset
  · cases h; exact .buildStep hp
  · cases (exec_of_idle (s := s.advance) _ hp).symm.trans h; exact .accept _ hp
  · cases h; exact .wait (.inl hp)
  · cases h; exact .altStep hp
  · cases h; exact .consume hp
  · cases h; exact .wait (.inr hp)

section Accepted

variable (s : State) (i : Instr)

@[simp] theorem accepted_config : (s.accepted i).config = s.config := by cases i <;> rfl
@[simp] theorem accepted_buildIdx : (s.accepted i).buildIdx = s.buildIdx := by cases i <;> rfl
@[simp] theorem accepted_rom : (s.accepted i).rom = s.rom := by cases i <;> rfl
@[simp] theorem accepted_epoch : (s.accepted i).epoch = s.epoch := by cases i <;> rfl
@[simp] theorem accepted_inputs : (s.accepted i).inputs = s.inputs := by cases i <;> rfl
@[simp] theorem accepted_received : (s.accepted i).received = s.received := by cases i <;> rfl
@[simp] theorem accepted_romRead (a : Chunk) : romRead (s.accepted i) a = romRead s a := by cases i <;> rfl

@[simp] theorem accepted_fault : (s.accepted i).fault = (s.fault || isReserved i) := by
  cases i <;> simp [State.accepted, isReserved]

theorem accepted_parityAlt (x : Word) : s.accepted (.parityAlt x) = s.startPce x := rfl

variable {i}

/-- An operation other than PARITY_ALT is answered at once (R101, R143, R202). -/
theorem accepted_phase_of_ne_parityAlt (hi : ∀ x, i ≠ .parityAlt x) : (s.accepted i).phase = .resp := by
  cases i with
  | parityAlt x => exact absurd rfl (hi x)
  | parity | parityLookup | reserved => rfl

/-- Only PARITY_ALT writes PCE at ACCEPT. -/
theorem accepted_pce_of_ne_parityAlt (hi : ∀ x, i ≠ .parityAlt x) :
    (s.accepted i).pceX = s.pceX ∧ (s.accepted i).pceAcc = s.pceAcc := by
  cases i with
  | parityAlt x => exact absurd rfl (hi x)
  | parity | parityLookup | reserved => exact ⟨rfl, rfl⟩

end Accepted

/-- A reserved request is one of the last constructor. -/
theorem isReserved_iff (i : Instr) : isReserved i = true ↔ ∃ x, i = .reserved x := by
  cases i <;> simp [isReserved]

/-- Whether a request is PARITY_ALT, the one operation that is not answered at once. -/
theorem parityAlt_or_ne (i : Instr) : (∃ x, i = .parityAlt x) ∨ ∀ x, i ≠ .parityAlt x := by
  cases i <;> simp

/-- An ALT_STEP that does not complete leaves the response registers (R122). -/
theorem altStep_response_of_ne_zero {s : State} (more : s.pceX ≠ 0) :
    (altStep s).rspResultQ = s.rspResultQ ∧ (altStep s).rspErrQ = s.rspErrQ := by
  rw [altStep_rspResultQ, altStep_rspErrQ, if_pos more, if_pos more]
  exact ⟨rfl, rfl⟩

/-- The content of a mask ROM does not depend on the rest of the state (spec/20_memory.md R52). -/
theorem romRead_eq_of_preloaded {s t : State} (sameConfig : t.config = s.config) (preloaded : s.config.romPreloaded = true)
    (a : Chunk) : romRead t a = romRead s a := by
  rw [romRead_preloaded preloaded, romRead_preloaded (sameConfig ▸ preloaded)]

/-- A BUILD_STEP writes the fold of the build address there. -/
theorem buildStep_romRead_self {s : State} (buildMode : s.config.romPreloaded = false) :
    romRead (buildStep s) (buildAddress s) = zext16 (fold (zext64 (buildAddress s))) :=
  romWrite_romRead_self buildMode _ _

/-- A BUILD_STEP writes no other entry. -/
theorem buildStep_romRead_ne (s : State) {a : Chunk} (other : a ≠ buildAddress s) :
    romRead (buildStep s) a = romRead s a :=
  romWrite_romRead_ne s _ other

/-- The address the next BUILD_STEP writes is the build index, when that is an address. -/
theorem buildAddress_toNat (s : State) : (buildAddress s).toNat = s.buildIdx.toNat % 65536 := by
  simp [buildAddress, BitVec.extractLsb'_toNat]

/-- An address at or below the build index is below it or is the one written next. -/
theorem lt_buildIdx_or_eq_buildAddress {s : State} {a : Chunk} (h : a.toNat < s.buildIdx.toNat + 1) :
    a.toNat < s.buildIdx.toNat ∨ a = buildAddress s := by
  rcases Nat.lt_succ_iff_lt_or_eq.mp h with below | atIndex
  · exact .inl below
  · refine .inr (BitVec.eq_of_toNat_eq ?_)
    rw [buildAddress_toNat, ← atIndex, Nat.mod_eq_of_lt a.isLt]

end Sys2Proof.Machine

/-! No step reads what holds no value (spec/10_state.md R38): each step keeps `State.LiveEq`. -/

namespace Sys2Proof.Machine

open Sys2Proof

namespace State.LiveEq

variable {s t : State}

/-- The port levels of the step are part of what holds a value. -/
theorem ports (h : s.LiveEq t) : s.ports = t.ports := by simp only [State.ports, h.inputs]

/-- Which step is enabled depends on the ports and the phase alone (R176). -/
theorem enabledEvent (h : s.LiveEq t) : enabledEvent s.ports s = enabledEvent t.ports t := by
  simp only [Machine.enabledEvent, h.ports, h.phase]

/-- No output port shows a register that holds no value (R25, R26). -/
theorem outputs (h : s.LiveEq t) (p : Inputs) : outputs p s = outputs p t := by
  have sameResponse : rspPort s = rspPort t := by
    by_cases inResp : s.phase = .resp
    · obtain ⟨result, err⟩ := h.response inResp
      simp only [rspPort, rspValid, ← h.phase, result, err]
    · simp [rspPort, rspValid, ← h.phase, inResp]
  simp only [Machine.outputs, reqReady, rspValid, initDone, h.phase, sameResponse]

theorem advance (h : s.LiveEq t) : s.advance.LiveEq t.advance :=
  { h with inputs := congrArg List.tail h.inputs }

/-- LMUX reads the same entries, since outside BUILD all of them agree. -/
theorem lookup (h : s.LiveEq t) (notBuild : s.phase ≠ .build) (x : Word) : lookup s x = lookup t x := by
  simp only [Machine.lookup, h.built notBuild]

/-- RESET leaves free values only where none is held: in the data registers, and in the whole ROM with `build_idx = 0`. -/
theorem resetStep (h : s.LiveEq t) : s.resetStep.LiveEq t.resetStep where
  config := by simpa using h.config
  phase := by simp [h.config]
  fault := by simpa using h.fault
  inputs := by simpa using h.inputs
  received := by simpa using h.received
  pce inLoop := by simp [ite_eq_iff] at inLoop
  response inResp := by simp [ite_eq_iff] at inResp
  buildIdx inBuild := by
    have buildMode : s.config.romPreloaded = false := by simpa using inBuild
    simp [← h.config, buildMode]
  building inBuild a below := by
    have buildMode : s.config.romPreloaded = false := by simpa using inBuild
    simp [buildMode] at below
  built notBuild a := by
    have preloaded : s.config.romPreloaded = true := by simpa using notBuild
    exact romRead_eq_of_preloaded (by simp [h.config]) (by simpa [← h.config] using preloaded) a

/-- After a BUILD_STEP the entries below the index agree as before, and the one written holds the same value. -/
theorem buildStep_romRead (h : s.LiveEq t) (inBuild : s.phase = .build) {a : Chunk}
    (builtNow : a.toNat < s.buildIdx.toNat + 1) : romRead (buildStep s) a = romRead (buildStep t) a := by
  cases mode : s.config.romPreloaded with
  | true => exact romRead_eq_of_preloaded (by simp [h.config]) (by simpa [← h.config] using mode) a
  | false =>
    have sameAddress : buildAddress s = buildAddress t := by simp only [buildAddress, h.buildIdx inBuild]
    by_cases atIndex : a = buildAddress s
    · rw [atIndex, buildStep_romRead_self mode, sameAddress, buildStep_romRead_self (h.config ▸ mode)]
    · have below := (lt_buildIdx_or_eq_buildAddress builtNow).resolve_right atIndex
      rw [buildStep_romRead_ne s atIndex, buildStep_romRead_ne t (sameAddress ▸ atIndex), h.building inBuild a below]

/-- BUILD_STEP extends the entries that hold a value by one, and the last one makes them the whole table. -/
theorem buildStep (h : s.LiveEq t) (inBuild : s.phase = .build) : (buildStep s).LiveEq (buildStep t) where
  config := h.config
  phase := by simp [h.phase, h.buildIdx inBuild]
  fault := h.fault
  inputs := h.inputs
  received := h.received
  pce inLoop := by simp [inBuild, ite_eq_iff] at inLoop
  response inResp := by simp [inBuild, ite_eq_iff] at inResp
  buildIdx _ := congrArg (· + 1) (h.buildIdx inBuild)
  building _ a below := by
    rw [buildStep_buildIdx, BitVec.toNat_add] at below
    exact h.buildStep_romRead inBuild (below.trans_le (Nat.mod_le _ _))
  built notBuild a := by
    have last : s.buildIdx = 65535 := by simpa [inBuild] using notBuild
    exact h.buildStep_romRead inBuild (last ▸ a.isLt)

/-- The same response, written outside BUILD, makes the response registers hold a value. -/
theorem respond (h : s.LiveEq t) (notBuild : s.phase ≠ .build) (err : Bit) (result : Result) :
    (s.respond err result).LiveEq (t.respond err result) where
  config := h.config
  phase := rfl
  fault := h.fault
  inputs := h.inputs
  received := h.received
  pce := nofun
  response _ := ⟨rfl, rfl⟩
  buildIdx := nofun
  building := nofun
  built _ a := h.built notBuild a

/-- A loaded engine holds a value, whatever PCE held before (R121). -/
theorem startPce (h : s.LiveEq t) (notBuild : s.phase ≠ .build) (x : Word) :
    (s.startPce x).LiveEq (t.startPce x) where
  config := h.config
  phase := rfl
  fault := h.fault
  inputs := h.inputs
  received := h.received
  pce _ := ⟨rfl, rfl⟩
  response := nofun
  buildIdx := nofun
  building := nofun
  built _ a := h.built notBuild a

/-- No operation reads the registers it finds; PARITY_LOOKUP reads the table, which is complete. -/
theorem accepted (h : s.LiveEq t) (inIdle : s.phase = .idle) (i : Instr) : (s.accepted i).LiveEq (t.accepted i) := by
  have notBuild : s.phase ≠ .build := by simp [inIdle]
  cases i with
  | parity x => exact h.respond notBuild _ _
  | parityAlt x => exact h.startPce notBuild x
  | parityLookup x =>
    rw [State.accepted, State.accepted, h.lookup notBuild]
    exact h.respond notBuild _ _
  | reserved x => exact { h.respond notBuild 1 0 with fault := rfl }

/-- ALT_STEP reads PCE in ALT_LOOP only, where it holds a value. -/
theorem altStep (h : s.LiveEq t) (inLoop : s.phase = .altLoop) : (altStep s).LiveEq (altStep t) := by
  have notBuild : s.phase ≠ .build := by simp [inLoop]
  obtain ⟨sameX, sameAcc⟩ := h.pce inLoop
  unfold Machine.altStep
  rw [← sameX, ← sameAcc]
  split
  · exact { h with
      pce := fun _ => ⟨rfl, rfl⟩
      response := fun inResp => by simp [inLoop] at inResp
      building := fun inBuild => absurd inBuild notBuild
      built := fun _ a => h.built notBuild a }
  · exact h.respond notBuild _ _

/-- The host receives the response registers, which hold a value in RESP. -/
theorem consume (h : s.LiveEq t) (inResp : s.phase = .resp) : s.consume.LiveEq t.consume where
  config := h.config
  phase := rfl
  fault := h.fault
  inputs := h.inputs
  received := by
    obtain ⟨result, err⟩ := h.response inResp
    simp only [consume_received, h.received, result, err]
  pce := nofun
  response := nofun
  buildIdx := nofun
  building := nofun
  built _ a := h.built (by simp [inResp]) a

/-- The same step, taken from two states that agree, leads to two states that agree. -/
theorem stepEffect {s' t' : State} {e : Event} (h : s.LiveEq t) (hs : StepEffect s e s') (ht : StepEffect t e t') :
    s'.LiveEq t' := by
  cases hs with
  | reset => cases ht; exact h.advance.resetStep
  | buildStep inBuild => cases ht; exact h.advance.buildStep inBuild
  | accept i inIdle => cases ht; exact h.advance.accepted inIdle i
  | altStep inLoop => cases ht; exact h.advance.altStep inLoop
  | consume inResp => cases ht; exact h.advance.consume inResp
  | wait => cases ht; exact h.advance

end State.LiveEq

/-- Settles O50: the same step is enabled in both states, and each step keeps the agreement. -/
theorem unwrittenStateNeverRead : Obligations.UnwrittenStateNeverRead := by
  intro s t s' t' h hs ht
  refine ⟨h.stepEffect (step_effect hs) (h.enabledEvent ▸ step_effect ht), ?_⟩
  rw [← h.ports]
  exact h.outputs s.ports

end Sys2Proof.Machine

/-! Which steps write which state (spec/10_state.md R30, R37, R40), the output ports, and the invariant at reset. -/

namespace Sys2Proof.Machine

open Sys2Proof

/-- Settles O45, by the effect of each step on the flag. -/
theorem faultOnlyFromReserved : Obligations.FaultOnlyFromReserved := by
  refine ⟨fun _ _ start => start.fault, rfl, fun s t h => ?_⟩
  have eff := step_effect h
  generalize enabledEvent s.ports s = e at eff ⊢
  cases eff with
  | accept i => simp [isReserved_iff]
  | reset | buildStep | altStep | consume | wait => simp

/-- Settles O46, by the phase each step leads to. -/
theorem phaseEnteredBy : Obligations.PhaseEnteredBy := by
  intro s t h changed
  have eff := step_effect h
  generalize enabledEvent s.ports s = e at eff ⊢
  cases eff with
  | reset => cases mode : s.config.romPreloaded <;> simp [mode]
  | buildStep inBuild =>
    have last : s.buildIdx = 65535 := by simpa [inBuild] using changed
    simp [last]
  | accept i =>
    rcases parityAlt_or_ne i with ⟨x, rfl⟩ | notAlt
    · simp [accepted_parityAlt]
    · simp [accepted_phase_of_ne_parityAlt _ notAlt, notAlt]
  | altStep inLoop =>
    have done : s.pceX = 0 := by simpa [inLoop] using changed
    simp [done]
  | consume => simp
  | wait => exact absurd rfl changed

/-- Settles O47, by what each step writes. -/
theorem stateWrittenOnlyBy : Obligations.StateWrittenOnlyBy := by
  intro s t h
  have eff := step_effect h
  generalize enabledEvent s.ports s = e at eff ⊢
  have sameConfig : t.config = s.config := by cases eff <;> simp
  have buildMode_of_changed : (∃ a, romRead t a ≠ romRead s a) → s.config.romPreloaded = false := fun ⟨a, changed⟩ =>
    Bool.eq_false_iff.mpr fun preloaded => changed (romRead_eq_of_preloaded sameConfig preloaded a)
  refine ⟨sameConfig, ?_⟩
  cases eff with
  | reset =>
    have buildMode_of_idx : s.advance.resetStep.buildIdx ≠ s.buildIdx → s.config.romPreloaded = false := fun changed =>
      Bool.eq_false_iff.mpr fun preloaded => changed (by simp [preloaded])
    exact ⟨fun changed => ⟨buildMode_of_changed changed, .inr rfl⟩, fun changed => .inr ⟨rfl, buildMode_of_idx changed⟩,
      by simp⟩
  | buildStep inBuild => exact ⟨fun changed => ⟨buildMode_of_changed changed, .inl ⟨rfl, inBuild⟩⟩, by simp⟩
  | accept i =>
    rcases parityAlt_or_ne i with ⟨x, rfl⟩ | notAlt
    · simp [accepted_parityAlt]
    · simp [accepted_pce_of_ne_parityAlt _ notAlt, notAlt]
  | altStep =>
    have done_of_answered : (altStep s.advance).rspResultQ ≠ s.rspResultQ ∨ (altStep s.advance).rspErrQ ≠ s.rspErrQ →
        s.pceX = 0 := fun changed => by
      by_contra more
      obtain ⟨sameResult, sameErr⟩ := altStep_response_of_ne_zero (s := s.advance) more
      exact changed.elim (absurd sameResult) (absurd sameErr)
    exact ⟨by simp, by simp, by simp, fun changed => .inl ⟨rfl, done_of_answered changed⟩, by simp⟩
  | consume => simp
  | wait => simp

/-- Settles O16: an operation takes effect as a whole in IDLE, and in another phase nothing changes. -/
theorem operationsFrame : Obligations.OperationsFrame := by
  intro i s t h
  rw [exec_eq_accept] at h
  obtain ⟨_, rfl⟩ | ⟨_, rfl⟩ := accept_next h
  · refine ⟨accepted_romRead s i, accepted_rom s i, accepted_config s i, accepted_buildIdx s i, accepted_epoch s i,
      accepted_inputs s i, accepted_received s i, fun notReserved => ?_, accepted_pce_of_ne_parityAlt s, ?_⟩
    · simp [notReserved]
    · rintro x rfl
      exact ⟨rfl, rfl⟩
  · simp

/-- Settles O44, port by port. -/
theorem outputsFollowState : Obligations.OutputsFollowState := by
  intro p s
  refine ⟨?_, ?_, fun valid => ?_, fun notValid => ?_, ?_⟩
  · simp [outputs, reqReady]
  · simp [outputs, rspValid]
  · exact if_pos valid
  · exact if_neg (Bool.eq_false_iff.mp notValid)
  · simp [outputs, initDone]

/-- A run starts in IDLE with a preloaded ROM, and in BUILD without (spec/70_reset_and_hazards.md R223). -/
theorem State.IsStart.phase_eq {c : Config} {s : State} (start : s.IsStart c) :
    s.phase = if s.config.romPreloaded then .idle else .build := by
  rw [start.phase, start.config]
  unfold State.resetFor
  cases c.romPreloaded <;> rfl

/-- Every start state has the invariant: a preloaded table is complete, and a build that starts has built nothing. -/
theorem State.IsStart.inv {c : Config} {s : State} (start : s.IsStart c) : s.Inv where
  romForm := by rw [start.rom]; exact Memory.nil_wf _
  preloaded preloaded := ⟨start.rom, by simp [start.phase_eq, preloaded]⟩
  building inBuild := by
    have buildMode : s.config.romPreloaded = false := by simpa [start.phase_eq] using inBuild
    rw [start.buildIdx (start.config ▸ buildMode)]
    exact ⟨by decide, fun _ below => absurd below (Nat.not_lt_zero _)⟩
  idxRange buildMode := by
    rw [start.buildIdx (start.config ▸ buildMode)]
    exact Nat.zero_le _
  built notBuild := by
    have preloaded : s.config.romPreloaded = true := by simpa [start.phase_eq] using notBuild
    exact romRead_preloaded preloaded
  response inResp := by simp [start.phase_eq, ite_eq_iff] at inResp
  received r member := by simp [start.received] at member

/-- The reset state of either mode is a start state. -/
theorem resetFor_isStart (c : Config) : (State.resetFor c).IsStart c := ⟨rfl, rfl, fun _ => rfl, rfl, rfl, rfl⟩

/-- Settles O49: every start state has the invariant, and the reset state is one. -/
theorem invariantAfterReset : Obligations.InvariantAfterReset :=
  ⟨(resetFor_isStart Config.standard).inv, fun _ _ start => start.inv⟩

end Sys2Proof.Machine

/-! Parity bit by bit (spec/00_scope.md R8), and the two values the table rests on: the fold of a value is its parity
(spec/40_fold.md R100, R103), and flipping one bit flips the parity. -/

namespace Sys2Proof.Machine

open Sys2Proof

/-- The parity of the bits of `v` below position `k`: the parity that belongs to `popcountBelow`. -/
def parityBelow {n : Nat} (v : BitVec n) (k : Nat) : Bit := BitVec.ofNat 1 (popcountBelow v k)

section ParityBelow

variable {n : Nat} (v w : BitVec n)

/-- The parity of a value is that of all its bits. -/
theorem parity_eq_parityBelow : parity v = parityBelow v n :=
  BitVec.eq_of_toNat_eq (by simp [parity, parityBelow, popcount])

@[simp] theorem parityBelow_zero : parityBelow v 0 = 0 := rfl

/-- One more bit is one more summand modulo 2. -/
theorem parityBelow_succ (k : Nat) : parityBelow v (k + 1) = parityBelow v k ^^^ BitVec.ofBool (v.getLsbD k) := by
  rw [parityBelow, popcountBelow, BitVec.ofNat_add, parityBelow, ← BitVec.add_eq_xor]
  cases v.getLsbD k <;> rfl

/-- Only the bits below the bound count, whatever the widths. -/
theorem parityBelow_congr {m : Nat} (u : BitVec m) {k : Nat} (agree : ∀ i < k, v.getLsbD i = u.getLsbD i) :
    parityBelow v k = parityBelow u k := by
  induction k with
  | zero => rfl
  | succ k ih =>
    rw [parityBelow_succ, parityBelow_succ, ih fun i hi => agree i (Nat.lt_succ_of_lt hi), agree k (Nat.lt_succ_self k)]

/-- Parity is linear. -/
theorem parityBelow_xor (k : Nat) : parityBelow (v ^^^ w) k = parityBelow v k ^^^ parityBelow w k := by
  induction k with
  | zero => simp
  | succ k ih =>
    have bits : BitVec.ofBool ((v ^^^ w).getLsbD k) = BitVec.ofBool (v.getLsbD k) ^^^ BitVec.ofBool (w.getLsbD k) := by
      rw [BitVec.getLsbD_xor, BitVec.ofBool_xor_ofBool]
    simp only [parityBelow_succ, ih, bits]
    ac_rfl

/-- The low `m + k` bits are the low `m` bits and the `k` bits that a shift by `m` brings down. -/
theorem parityBelow_add (m k : Nat) : parityBelow v (m + k) = parityBelow v m ^^^ parityBelow (v >>> m) k := by
  induction k with
  | zero => simp
  | succ k ih => rw [← Nat.add_assoc, parityBelow_succ, parityBelow_succ, ih, BitVec.getLsbD_ushiftRight, BitVec.xor_assoc]

/-- A value without bits has parity 0. -/
@[simp] theorem parityBelow_of_zero (k : Nat) : parityBelow (0#n) k = 0 := by
  induction k with
  | zero => rfl
  | succ k ih => simp [parityBelow_succ, ih]

/-- Parity is linear (R8). -/
theorem parity_xor : parity (v ^^^ w) = parity v ^^^ parity w := by
  simp only [parity_eq_parityBelow, parityBelow_xor]

/-- Widening adds bits that are 0, which the parity does not see. -/
theorem parity_setWidth {m : Nat} (wider : n ≤ m) : parity (v.setWidth m) = parity v := by
  obtain ⟨k, rfl⟩ := Nat.exists_eq_add_of_le wider
  have noHighBits : v.setWidth (n + k) >>> n = 0#(n + k) := BitVec.eq_of_getLsbD_eq fun i _ => by simp
  rw [parity_eq_parityBelow, parityBelow_add, noHighBits, parityBelow_of_zero, parity_eq_parityBelow]
  exact (BitVec.xor_zero).trans (parityBelow_congr _ _ fun i hi => by simp [hi, Nat.lt_add_right k hi])

/-- A single bit counts once it is below the bound. -/
theorem parityBelow_twoPow {k : Nat} (hk : k < n) (j : Nat) :
    parityBelow (BitVec.twoPow n k) j = if k < j then 1 else 0 := by
  induction j with
  | zero => rfl
  | succ j ih =>
    rw [parityBelow_succ, ih, BitVec.getLsbD_twoPow]
    rcases Nat.lt_trichotomy k j with below | rfl | above
    · simp [below, Nat.lt_succ_of_lt below, Nat.ne_of_lt below]
    · simp [hk]
    · simp [Nat.not_lt_of_gt above, Nat.not_lt_of_ge above, Nat.ne_of_gt above]

/-- A single bit has odd parity. -/
theorem parity_twoPow {k : Nat} (hk : k < n) : parity (BitVec.twoPow n k) = 1 := by
  rw [parity_eq_parityBelow, parityBelow_twoPow hk, if_pos hk]

end ParityBelow

/-- A fold stage brings the upper half of `2k` bits down onto the lower half, which keeps their parity (R100, R102). -/
theorem parityBelow_foldStage (v : Word) (k : Nat) : parityBelow (foldStage v k) k = parityBelow v (k + k) := by
  rw [foldStage, parityBelow_xor, parityBelow_add]

/-- The lowest bit alone is its own parity. -/
theorem parityBelow_one (v : Word) : parityBelow v 1 = v.extractLsb' 0 1 := by
  rw [parityBelow_succ, parityBelow_zero]
  refine BitVec.zero_xor.trans (BitVec.eq_of_getLsbD_eq fun i hi => ?_)
  simp [Nat.lt_one_iff.mp hi]

/-- Six stages carry the parity of 64 bits down to one bit. -/
theorem fold_eq_parity (x : Word) : fold x = parity x := by
  have stages : foldAfter 6 x =
      foldStage (foldStage (foldStage (foldStage (foldStage (foldStage x 32) 16) 8) 4) 2) 1 := rfl
  rw [fold, ← parityBelow_one, stages]
  iterate 6 rw [parityBelow_foldStage]
  exact (parity_eq_parityBelow x).symm

/-- What the build sequencer computes for an address is the parity of the address (R103, spec/42_lookup.md R150). -/
theorem fold_zext64 (a : Chunk) : fold (zext64 a) = parity a :=
  (fold_eq_parity _).trans (parity_setWidth a (by decide))

end Sys2Proof.Machine

/-! The entries of the Parity Lookup Table (spec/20_memory.md R53) and what a complete table makes of a lookup
(spec/42_lookup.md R142, R145). -/

namespace Sys2Proof.Machine

open Sys2Proof

/-- A widened bit is 0 or 1 (spec/00_scope.md R7). -/
theorem zext16_eq_zero_or_one (b : Bit) : zext16 b = 0 ∨ zext16 b = 1 := by
  rcases BitVec.eq_zero_or_eq_one b with rfl | rfl
  · exact .inl rfl
  · exact .inr rfl

/-- Widening commutes with XOR, so LMUX works on bits 0 alone. -/
theorem zext16_xor (b c : Bit) : zext16 (b ^^^ c) = zext16 b ^^^ zext16 c := BitVec.setWidth_xor

/-- Bits 15 to 1 of a widened bit are 0. -/
theorem zext16_getLsbD_of_pos (b : Bit) {i : Nat} (hi : 1 ≤ i) : (zext16 b).getLsbD i = false := by
  rw [zext16, BitVec.getLsbD_setWidth, BitVec.getLsbD_of_ge b i hi, Bool.and_false]

/-- Bit 0 of a widened parity says whether the number of set bits is odd (spec/00_scope.md R8). -/
theorem zext16_parity_getLsbD_zero {n : Nat} (v : BitVec n) :
    (zext16 (parity v)).getLsbD 0 = decide (popcount v % 2 = 1) := by
  rw [zext16, BitVec.getLsbD_setWidth, parity, BitVec.getLsbD_ofNat]
  simp

/-- Flipping one address bit flips the entry. -/
theorem tableEntry_flip (a : Chunk) {k : Nat} (hk : k < 16) : tableEntry (a ^^^ BitVec.twoPow 16 k) = tableEntry a ^^^ 1 := by
  rw [tableEntry, parity_xor, parity_twoPow hk, zext16_xor]
  rfl

/-- Settles O32: an entry is a widened bit, and flipping an address bit adds an odd parity. -/
theorem flippedAddressBitFlipsEntry : Obligations.FlippedAddressBitFlipsEntry := by
  intro a k hk
  refine ⟨zext16_eq_zero_or_one _, ?_⟩
  rw [← BitVec.twoPow_eq]
  exact tableEntry_flip a hk

/-- With a complete table LMUX gives the XOR of the chunks' parities (R145). -/
theorem State.RomComplete.lookup {s : State} (complete : s.RomComplete) (x : Word) :
    lookup s x = zext16 (parity (chunk 3 x) ^^^ parity (chunk 2 x) ^^^ parity (chunk 1 x) ^^^ parity (chunk 0 x)) := by
  simp only [Machine.lookup, complete _, tableEntry, zext16_xor]

end Sys2Proof.Machine

/-! Every step keeps the invariant (spec/20_memory.md R53, spec/42_lookup.md R151), so every reachable state has it. -/

namespace Sys2Proof.Machine

open Sys2Proof

/-- A parity without error is a legal response. -/
theorem Response.legal_zext16 (b : Bit) : Response.Legal { err := 0, result := zext16 b } :=
  .inl ⟨rfl, zext16_eq_zero_or_one b⟩

/-- The error response is a legal one. -/
theorem Response.legal_error : Response.Legal { err := 1, result := 0 } := .inr ⟨rfl, rfl⟩

/-- In build mode RESET starts the build at address 0 (spec/10_state.md R39). -/
theorem resetStep_buildIdx_of_buildMode {s : State} (buildMode : s.config.romPreloaded = false) : s.resetStep.buildIdx = 0 := by
  simp [buildMode]

namespace State.Inv

variable {s : State}

theorem advance (h : s.Inv) : s.advance.Inv := { h with }

/-- BUILD exists in build mode only (spec/42_lookup.md R153). -/
theorem buildMode (h : s.Inv) (inBuild : s.phase = .build) : s.config.romPreloaded = false :=
  Bool.eq_false_iff.mpr fun preloaded => (h.preloaded preloaded).2 inBuild

/-- RESET leaves no written entry: a mask ROM has none, and a built one loses them. -/
theorem resetStep_rom_eq_nil (h : s.Inv) : s.resetStep.rom = [] := by
  rw [resetStep_rom]
  split_ifs with preloaded
  · exact (h.preloaded preloaded).1
  · rfl

/-- RESET leaves a complete mask ROM, or a build that has built nothing. -/
theorem resetStep (h : s.Inv) : s.resetStep.Inv where
  romForm := by rw [h.resetStep_rom_eq_nil]; exact Memory.nil_wf _
  preloaded preloaded := ⟨h.resetStep_rom_eq_nil, by simpa using preloaded⟩
  building inBuild := by
    rw [resetStep_buildIdx_of_buildMode (by simpa using inBuild)]
    exact ⟨by decide, fun _ below => absurd below (Nat.not_lt_zero _)⟩
  idxRange buildMode := by
    rw [resetStep_buildIdx_of_buildMode (by simpa using buildMode)]
    exact Nat.zero_le _
  built notBuild := romRead_preloaded (by simpa using notBuild)
  response inResp := by simp [ite_eq_iff] at inResp
  received := by simpa using h.received

/-- During BUILD the index is an address, so it is counted up without wrapping. -/
theorem buildStep_buildIdx_toNat (h : s.Inv) (inBuild : s.phase = .build) :
    (buildStep s).buildIdx.toNat = s.buildIdx.toNat + 1 := by
  have inRange : s.buildIdx.toNat < 65536 := (h.building inBuild).1
  rw [buildStep_buildIdx, BitVec.toNat_add]
  exact Nat.mod_eq_of_lt (show s.buildIdx.toNat + 1 < 2 ^ 17 by omega)

/-- A BUILD_STEP adds the entry at the index to those that are built. -/
theorem buildStep_romBuiltBelow (h : s.Inv) (inBuild : s.phase = .build) :
    (buildStep s).RomBuiltBelow (s.buildIdx.toNat + 1) := by
  intro a builtNow
  by_cases atIndex : a = buildAddress s
  · rw [atIndex, buildStep_romRead_self (h.buildMode inBuild), fold_zext64, tableEntry]
  · have below := (lt_buildIdx_or_eq_buildAddress builtNow).resolve_right atIndex
    rw [buildStep_romRead_ne s atIndex]
    exact (h.building inBuild).2 a below

/-- BUILD_STEP extends the built entries by one, and the last one completes the table (spec/42_lookup.md R150, R151). -/
theorem buildStep (h : s.Inv) (inBuild : s.phase = .build) : (buildStep s).Inv where
  romForm := Memory.write_wf _ _ _ h.romForm
  preloaded preloaded := absurd ((h.buildMode inBuild).symm.trans preloaded) Bool.false_ne_true
  building stillBuild := by
    have notLast : s.buildIdx.toNat ≠ 65535 := fun last => by
      simp [BitVec.eq_of_toNat_eq (y := 65535#17) last] at stillBuild
    have inRange : s.buildIdx.toNat < 65536 := (h.building inBuild).1
    rw [h.buildStep_buildIdx_toNat inBuild]
    exact ⟨by rw [Config.romDepth]; omega, h.buildStep_romBuiltBelow inBuild⟩
  idxRange _ := by
    rw [h.buildStep_buildIdx_toNat inBuild]
    exact (h.building inBuild).1
  built notBuild a := by
    have last : s.buildIdx = 65535 := by simpa [inBuild] using notBuild
    exact h.buildStep_romBuiltBelow inBuild a (last ▸ a.isLt)
  response inResp := by simp [inBuild, ite_eq_iff] at inResp
  received := h.received

/-- Entering a phase outside BUILD from one outside BUILD, with the ROM and the index left alone, asks only that the
responses be legal. -/
theorem of_outside_build {t : State} (h : s.Inv) (notBuild : s.phase ≠ .build) (notBuild' : t.phase ≠ .build)
    (config : t.config = s.config) (epoch : t.epoch = s.epoch) (rom : t.rom = s.rom) (buildIdx : t.buildIdx = s.buildIdx)
    (response : t.phase = .resp → Response.Legal { err := t.rspErrQ, result := t.rspResultQ })
    (received : ∀ r ∈ t.received, r.Legal) : t.Inv where
  romForm := by rw [epoch, rom]; exact h.romForm
  preloaded preloaded := by rw [rom]; exact ⟨(h.preloaded (config ▸ preloaded)).1, notBuild'⟩
  building inBuild := absurd inBuild notBuild'
  idxRange buildMode := by rw [buildIdx]; exact h.idxRange (config ▸ buildMode)
  built _ a := (romRead_congr config epoch rom a).trans (h.built notBuild a)
  response := response
  received := received

/-- An operation that is answered at once answers a parity or the error; PARITY_ALT answers nothing yet. -/
theorem accepted (h : s.Inv) (inIdle : s.phase = .idle) (i : Instr) : (s.accepted i).Inv := by
  have notBuild : s.phase ≠ .build := by simp [inIdle]
  refine h.of_outside_build notBuild ?_ (by simp) (by simp) (by simp) (by simp) ?_ (by simpa using h.received)
  · cases i <;> exact nofun
  · intro inResp
    cases i with
    | parity x => exact Response.legal_zext16 _
    | parityAlt x => exact nomatch inResp
    | parityLookup x =>
      rw [State.accepted, respond_rspErrQ, respond_rspResultQ, (h.built notBuild).lookup x]
      exact Response.legal_zext16 _
    | reserved x => exact Response.legal_error

/-- ALT_STEP stays in the loop, or answers the accumulator, which is one bit (spec/41_bitclear.md R122). -/
theorem altStep (h : s.Inv) (inLoop : s.phase = .altLoop) : (altStep s).Inv := by
  have notBuild : s.phase ≠ .build := by simp [inLoop]
  refine h.of_outside_build notBuild ?_ (by simp) (by simp) (by simp) (by simp) ?_ (by simpa using h.received)
  · simp [inLoop, ite_eq_iff]
  · intro inResp
    have done : s.pceX = 0 := by simpa [inLoop] using inResp
    simpa [done] using Response.legal_zext16 s.pceAcc

/-- CONSUME delivers the response on the port, which is a legal one. -/
theorem consume (h : s.Inv) (inResp : s.phase = .resp) : s.consume.Inv := by
  refine h.of_outside_build (by simp [inResp]) nofun rfl rfl rfl rfl nofun fun r delivered => ?_
  rcases List.mem_append.mp delivered with before | now
  · exact h.received r before
  · exact List.mem_singleton.mp now ▸ h.response inResp

/-- The effect of each step of R176 keeps the invariant. -/
theorem stepEffect {t : State} {e : Event} (h : s.Inv) (eff : StepEffect s e t) : t.Inv := by
  cases eff with
  | reset => exact h.advance.resetStep
  | buildStep inBuild => exact h.advance.buildStep inBuild
  | accept i inIdle => exact h.advance.accepted inIdle i
  | altStep inLoop => exact h.advance.altStep inLoop
  | consume inResp => exact h.advance.consume inResp
  | wait => exact h.advance

end State.Inv

/-- Settles O48, by the effect of the step that is enabled. -/
theorem invariantKeptByEveryStep : Obligations.InvariantKeptByEveryStep :=
  fun _ _ h stepped => h.stepEffect (step_effect stepped)

/-- Every state of a run has the invariant, whatever host and platform do. -/
theorem Reachable.inv {c : Config} {s : State} (reachable : Reachable c s) : s.Inv := by
  induction reachable with
  | start s start => exact start.inv
  | step s t _ stepped ih => exact invariantKeptByEveryStep s t ih stepped

/-- Settles O31: the invariant holds in every reachable state, and an entry of the table is a widened parity. -/
theorem romHoldsTheTable : Obligations.RomHoldsTheTable := by
  intro c s reachable notBuild a
  have entry : romRead s a = zext16 (parity a) := reachable.inv.built notBuild a
  rw [entry]
  exact ⟨rfl, fun _ hi => zext16_getLsbD_of_pos _ hi, zext16_parity_getLsbD_zero a⟩

end Sys2Proof.Machine

/-! Request words and operations determine each other (spec/30_encoding.md R70, R71, R75), and the fields of the response word
(R72). -/

namespace Sys2Proof

/-- A request word is made of its two fields (R70). -/
theorem requestWord_opField_operandField (req : Request) : requestWord (opField req) (operandField req) = req :=
  (BitVec.extractLsb'_append_extractLsb'_eq_extractLsb' rfl).trans BitVec.extractLsb'_eq_self

/-- There are four operation selects (R71). -/
theorem opcode_cases (op : Opcode) : op = 0b00#2 ∨ op = 0b01#2 ∨ op = 0b10#2 ∨ op = 0b11#2 := by
  revert op; decide

/-- Every request word encodes an operation: the one of its operation select, with its operand. -/
theorem exists_encode_eq (req : Request) : ∃ i, encode i = req := by
  have fields := requestWord_opField_operandField req
  rcases opcode_cases (opField req) with op | op | op | op <;> rw [op] at fields
  · exact ⟨.parity _, fields⟩
  · exact ⟨.parityAlt _, fields⟩
  · exact ⟨.parityLookup _, fields⟩
  · exact ⟨.reserved _, fields⟩

/-- Decoding gives back an operation that was encoded, by the arm of its operation select (R75). -/
theorem decode_encode (i : Instr) : decode (encode i) = i := by
  obtain ⟨op, operand⟩ := Laws.requestWord_fields i.op i.operand
  rw [encode, decode, op, operand]
  cases i <;> rfl

/-- Encoding gives back a request word that was decoded. -/
theorem encode_decode (req : Request) : encode (decode req) = req := by
  obtain ⟨i, rfl⟩ := exists_encode_eq req
  rw [decode_encode]

/-- A number that fits 66 bits is read as that request word (R70). -/
theorem decodeNumber_of_lt {w : Nat} (fits : w < 2 ^ 66) : decodeNumber w = .ok (decode (BitVec.ofNat 66 w)) :=
  if_pos (decide_eq_true fits)

/-- A wider number is refused by name. -/
theorem decodeNumber_of_le {w : Nat} (tooWide : 2 ^ 66 ≤ w) : decodeNumber w = .error .notARequestWord :=
  if_neg (by simpa [isRequestNumber] using tooWide)

/-- A table number reads as an operation exactly when it is the number of that operation's request word. -/
theorem decodeTableWord_eq_some_iff {nbits w : Nat} {i : Instr} :
    decodeTableWord nbits w = some i ↔ w % 2 ^ nbits = (encode i).toNat := by
  rcases Nat.lt_or_ge (w % 2 ^ nbits) (2 ^ 66) with fits | tooWide
  · rw [decodeTableWord, decodeNumber_of_lt fits]
    constructor
    · rintro ⟨⟩
      rw [encode_decode, BitVec.toNat_ofNat, Nat.mod_eq_of_lt fits]
    · intro number
      rw [number, BitVec.ofNat_toNat, BitVec.setWidth_eq, decode_encode]
  · rw [decodeTableWord, decodeNumber_of_le tooWide]
    refine ⟨nofun, fun number => ?_⟩
    have fits : (encode i).toNat < 2 ^ 66 := (encode i).isLt
    omega

/-- Settles O2: both directions by the arms of decoding, and a table number of 72 bits by the request word it must be. -/
theorem decodeEncodeAgree : Obligations.DecodeEncodeAgree := by
  refine ⟨fun i _ => decode_encode i, encode_decode, fun i _ => ?_, fun w i read => ?_⟩
  · have fits : (encode i).toNat < 2 ^ 72 := (encode i).isLt.trans (by decide)
    exact decodeTableWord_eq_some_iff.mpr (Nat.mod_eq_of_lt fits)
  · exact (decodeTableWord_eq_some_iff.mp read).symm

/-- Settles O1: the arm of each operation select, and every request word split into its fields. -/
theorem decodeHasFourArms : Obligations.DecodeHasFourArms := by
  refine ⟨fun x => ?_, fun req => ?_⟩
  · exact ⟨decode_encode (.parity x), decode_encode (.parityAlt x), decode_encode (.parityLookup x),
      x, decode_encode (.reserved x)⟩
  · exact ⟨opField req, operandField req, (requestWord_opField_operandField req).symm, opcode_cases _⟩

/-- Settles O3, by whether the number fits. -/
theorem numberRefusedExactlyWhenTooWide : Obligations.NumberRefusedExactlyWhenTooWide :=
  fun _ => ⟨decodeNumber_of_lt, decodeNumber_of_le⟩

/-- Settles O4: each vector is the encoding of its operation, written out. -/
theorem vectorsDecode : Obligations.VectorsDecode :=
  ⟨decode_encode (.parity 0x7), decode_encode (.parityAlt 0x7), decode_encode (.parityLookup 0x7),
    ⟨0x7, decode_encode (.reserved 0x7)⟩, decode_encode (.parity 0xFFFFFFFFFFFFFFFF),
    decode_encode (.parityLookup 0xFFFFFFFFFFFFFFFF), decode_encode (.parityAlt 0x8000000000000000)⟩

/-- Settles O5: the response word is the two fields side by side. -/
theorem responseWordFields : Obligations.ResponseWordFields :=
  fun _ => ⟨BitVec.extractLsb'_append_eq_left, BitVec.extractLsb'_append_eq_right⟩

end Sys2Proof

/-! The hexadecimal digits of a number, most significant first, and the text of a script line (spec/30_encoding.md R76). -/

namespace Sys2Proof.Machine

open Sys2Proof

section HexDigits

variable (k n : Nat)

@[simp] theorem hexDigits_length : (hexDigits k n).length = k := by
  induction k generalizing n with
  | zero => rfl
  | succ k ih => rw [hexDigits, List.length_append, ih, List.length_singleton]

/-- Each digit is a remainder by 16. -/
theorem hexDigits_lt {d : Nat} (member : d ∈ hexDigits k n) : d < 16 := by
  induction k generalizing n with
  | zero => exact nomatch member
  | succ k ih =>
    rcases List.mem_append.mp member with higher | lowest
    · exact ih _ higher
    · rw [List.mem_singleton.mp lowest]
      exact Nat.mod_lt n (by decide)

/-- Read from the left in base 16, `k` digits are the number modulo `16 ^ k`. -/
theorem hexDigits_foldl : (hexDigits k n).foldl (fun m d => m * 16 + d) 0 = n % 16 ^ k := by
  induction k generalizing n with
  | zero => exact (Nat.mod_one n).symm
  | succ k ih => rw [hexDigits, List.foldl_concat, ih, Nat.pow_succ', Nat.mod_mul, Nat.add_comm, Nat.mul_comm]

/-- The first of `k + 1` digits is the one of weight `16 ^ k`. -/
theorem hexDigits_head? : (hexDigits (k + 1) n).head? = some (n / 16 ^ k % 16) := by
  induction k generalizing n with
  | zero => simp [hexDigits]
  | succ k ih =>
    rw [hexDigits, List.head?_append, ih, Nat.div_div_eq_div_mul, ← Nat.pow_succ']
    rfl

end HexDigits

/-- The operation select is what stands from bit 64 on, the weight of the first of 17 digits. -/
theorem opField_toNat (req : Request) : (opField req).toNat = req.toNat / 16 ^ 16 % 16 := by
  have bits : req.toNat < 2 ^ 66 := req.isLt
  rw [opField, BitVec.extractLsb'_toNat, Nat.shiftRight_eq_div_pow]
  omega

/-- Settles O6, by the laws of the digits of any number: 17 digits hold 68 bits. -/
theorem requestDigitsSpellTheWord : Obligations.RequestDigitsSpellTheWord := by
  intro req
  have fits : req.toNat < 16 ^ 17 := req.isLt.trans (by decide)
  refine ⟨hexDigits_length 17 _, ?_, ?_, fun _ => hexDigits_lt 17 _⟩
  · rw [requestDigits, hexDigits_foldl, Nat.mod_eq_of_lt fits]
  · rw [requestDigits, hexDigits_head?, opField_toNat]

/-- Settles O7, by running the parser and the printer on the example of R76. -/
theorem scriptLineExample : Obligations.ScriptLineExample := by
  unfold Obligations.ScriptLineExample
  exact ⟨by decide, by decide, by decide⟩

end Sys2Proof.Machine

/-! Clearing the lowest set bit (spec/41_bitclear.md R123): what it leaves, and what it does to the number of set bits and to
the parity. -/

namespace Sys2Proof.Machine

open Sys2Proof

/-- There is something to count below `k` exactly when some bit below `k` is set. -/
theorem popcountBelow_pos_iff {n : Nat} (v : BitVec n) (k : Nat) :
    0 < popcountBelow v k ↔ ∃ j < k, v.getLsbD j = true := by
  induction k with
  | zero => simp [popcountBelow]
  | succ k ih =>
    rw [popcountBelow, Nat.exists_lt_succ_right, ← ih]
    cases v.getLsbD k <;> simp

/-- A value other than 0 has a set bit. -/
theorem popcount_pos_of_ne_zero {n : Nat} {v : BitVec n} (nonzero : v ≠ 0) : 0 < popcount v := by
  by_contra none
  have noBit : ∀ j < n, v.getLsbD j = false := by
    simpa [popcountBelow_pos_iff, popcount] using none
  exact nonzero (BitVec.eq_of_getLsbD_eq fun j hj => by simpa using noBit j hj)

/-- `v - 1` inverts the bits of the negation, and the negation inverts the bits above the lowest set one; so what
`v & (v - 1)` keeps is the bits that have a set bit below them. -/
theorem clearLowest_getLsbD (v : Word) (i : Nat) :
    (clearLowest v).getLsbD i = (v.getLsbD i && decide (∃ j < i, v.getLsbD j = true)) := by
  have predecessor : v - 1 = ~~~(-v) := (BitVec.not_neg v).symm
  rw [clearLowest, predecessor, BitVec.getLsbD_and, BitVec.getLsbD_not, BitVec.getLsbD_neg]
  cases bit : v.getLsbD i with
  | false => rfl
  | true => simp [BitVec.lt_of_getLsbD bit]

/-- Of the set bits below any position, the lowest is cleared. -/
theorem popcountBelow_clearLowest (v : Word) (k : Nat) : popcountBelow (clearLowest v) k = popcountBelow v k - 1 := by
  induction k with
  | zero => rfl
  | succ k ih =>
    have kept : (clearLowest v).getLsbD k = (v.getLsbD k && decide (0 < popcountBelow v k)) := by
      simp only [clearLowest_getLsbD, popcountBelow_pos_iff]
    rw [popcountBelow, popcountBelow, ih, kept]
    cases v.getLsbD k with
    | false => rfl
    | true =>
      rcases Nat.eq_zero_or_pos (popcountBelow v k) with noneBelow | someBelow
      · simp [noneBelow]
      · simpa [someBelow] using Nat.sub_add_cancel someBelow

/-- `popcount(v & (v - 1)) = popcount(v) - 1` for a `v` that is not 0 (R123). -/
theorem popcount_clearLowest {v : Word} (nonzero : v ≠ 0) : popcount (clearLowest v) + 1 = popcount v := by
  have counted := popcount_pos_of_ne_zero nonzero
  rw [popcount, popcountBelow_clearLowest]
  exact Nat.sub_add_cancel counted

/-- A value without set bits has parity 0. -/
theorem parity_zero {n : Nat} : parity (0 : BitVec n) = 0#1 :=
  (parity_eq_parityBelow _).trans (parityBelow_of_zero n)

/-- Clearing one set bit flips the parity. -/
theorem parity_clearLowest {v : Word} (nonzero : v ≠ 0) : parity (clearLowest v) = parity v ^^^ 1 := by
  have flipped : parity v = parity (clearLowest v) ^^^ 1 := by
    rw [parity_eq_parityBelow, parityBelow, ← popcount, ← popcount_clearLowest nonzero, BitVec.ofNat_add,
      BitVec.add_eq_xor, parity_eq_parityBelow]
    rfl
  rw [flipped, BitVec.xor_assoc, BitVec.xor_self, BitVec.xor_zero]

/-- The accumulator and the parity of what is left together stay the same when a bit is cleared and the accumulator
inverted (spec/41_bitclear.md R125). -/
theorem acc_xor_parity_clearLowest {v : Word} (acc : Bit) (nonzero : v ≠ 0) :
    (acc ^^^ 1) ^^^ parity (clearLowest v) = acc ^^^ parity v := by
  rw [parity_clearLowest nonzero, BitVec.xor_assoc, BitVec.xor_comm 1, BitVec.xor_assoc, BitVec.xor_self, BitVec.xor_zero]

end Sys2Proof.Machine

/-! A lookup in a complete table is the parity of the operand (spec/42_lookup.md R145), so an operation that is answered at once
is answered with what its request determines (spec/43_transactions.md R180). -/

namespace Sys2Proof.Machine

open Sys2Proof

/-- The parity of two values side by side. -/
theorem parity_append {m n : Nat} (v : BitVec m) (w : BitVec n) : parity (v ++ w) = parity v ^^^ parity w := by
  have low : parityBelow (v ++ w) n = parityBelow w n :=
    parityBelow_congr _ _ fun i hi => by simp [BitVec.getLsbD_append, hi]
  have high : parityBelow ((v ++ w) >>> n) m = parityBelow v m :=
    parityBelow_congr _ _ fun i _ => by simp [BitVec.getLsbD_append]
  calc parity (v ++ w) = parityBelow (v ++ w) (n + m) := Nat.add_comm m n ▸ parity_eq_parityBelow _
    _ = parityBelow w n ^^^ parityBelow v m := by rw [parityBelow_add, low, high]
    _ = parity v ^^^ parity w := by rw [BitVec.xor_comm, ← parity_eq_parityBelow, ← parity_eq_parityBelow]

/-- The parity of the operand is that of its four chunks together. -/
theorem parity_chunks (x : Word) :
    parity (chunk 3 x) ^^^ parity (chunk 2 x) ^^^ parity (chunk 1 x) ^^^ parity (chunk 0 x) = parity x := by
  rw [← parity_append, ← parity_append, ← parity_append, chunks_append]

/-- With a complete table a lookup gives the parity of the operand (R145). -/
theorem State.RomComplete.lookup_eq_parity {s : State} (complete : s.RomComplete) (x : Word) :
    Machine.lookup s x = zext16 (parity x) := by
  rw [complete.lookup, parity_chunks]

/-- With a complete table, what an operation other than PARITY_ALT writes at ACCEPT is its answer. -/
theorem accepted_response_of_ne_parityAlt {s : State} {i : Instr} (complete : s.RomComplete)
    (notAlt : ∀ x, i ≠ .parityAlt x) :
    Response.mk (s.accepted i).rspErrQ (s.accepted i).rspResultQ = answer i := by
  cases i with
  | parity x => simp [State.accepted, answer, fold_eq_parity]
  | parityAlt x => exact absurd rfl (notAlt x)
  | parityLookup x => simp [State.accepted, answer, complete.lookup_eq_parity]
  | reserved x => rfl

end Sys2Proof.Machine

/-! The step that each phase and the port levels enable (spec/43_transactions.md R176), as an equation. -/

namespace Sys2Proof.Machine

open Sys2Proof

/-- The step of an event other than ACCEPT is its effect. -/
theorem step_of_enabled {s : State} {e : Event} (enabled : enabledEvent s.ports s = e) (internal : ∀ i, e ≠ .accept i) :
    step s = .next (s.advance.internal e) := by
  subst enabled
  exact step_of_internal internal

section StepByPhase

variable {s : State} (released : s.ports.rst = false)
include released

theorem step_of_build (inBuild : s.phase = .build) : step s = .next (buildStep s.advance) :=
  step_of_enabled (e := .buildStep) (by simp [enabledEvent, released, inBuild]) nofun

theorem step_of_offered (inIdle : s.phase = .idle) (offered : s.ports.reqValid = true) :
    step s = .next (s.advance.accepted s.ports.instr) := by
  have enabled : enabledEvent s.ports s = .accept s.ports.instr := by simp [enabledEvent, released, inIdle, offered]
  rw [step_of_accept enabled, exec_of_idle (s := s.advance) _ inIdle]

theorem step_of_altLoop (inLoop : s.phase = .altLoop) : step s = .next (altStep s.advance) :=
  step_of_enabled (e := .altStep) (by simp [enabledEvent, released, inLoop]) nofun

theorem step_of_taken (inResp : s.phase = .resp) (taken : s.ports.rspReady = true) :
    step s = .next s.advance.consume :=
  step_of_enabled (e := .consume) (by simp [enabledEvent, released, inResp, taken]) nofun

end StepByPhase

/-- With no set bit left the loop completes (spec/41_bitclear.md R122). -/
theorem altStep_of_zero {s : State} (done : s.pceX = 0) : altStep s = s.respond 0 (zext16 s.pceAcc) :=
  if_neg (not_not_intro done)

/-- With a set bit left the loop clears one (R122). -/
theorem altStep_of_ne_zero {s : State} (more : s.pceX ≠ 0) :
    altStep s = { s with pceAcc := s.pceAcc ^^^ 1, pceX := clearLowest s.pceX } :=
  if_pos more

/-- A BUILD_STEP leaves the block in BUILD, or idle after the last address. -/
theorem buildStep_phase_idle_or_build {s : State} (inBuild : s.phase = .build) :
    (buildStep s).phase = .idle ∨ (buildStep s).phase = .build := by
  rw [buildStep_phase, inBuild]
  split <;> simp

/-- Each BUILD_STEP is one of those that remained (spec/42_lookup.md R151). -/
theorem State.Inv.buildStepsLeft_buildStep {s : State} (h : s.Inv) (inBuild : s.phase = .build) :
    buildStepsLeft (Machine.buildStep s) + 1 = buildStepsLeft s := by
  have inRange : s.buildIdx.toNat < 65536 := (h.building inBuild).1
  by_cases last : s.buildIdx = 65535
  · simp [buildStepsLeft, inBuild, last, Config.romDepth]
  · have notLast : s.buildIdx.toNat ≠ 65535 := fun eq => last (BitVec.eq_of_toNat_eq eq)
    have idx := h.buildStep_buildIdx_toNat inBuild
    simp only [buildStepsLeft, buildStep_phase, last, if_false, inBuild, idx, Config.romDepth]
    omega

end Sys2Proof.Machine

/-! The host that carries out a transaction line (spec/30_encoding.md R76, R77): the wait for ACCEPT, through the rest of a build,
and the wait for CONSUME, through the loop of PARITY_ALT. -/

namespace Sys2Proof.Machine

open Sys2Proof

theorem State.Inv.withPorts {s : State} (h : s.Inv) (p : Inputs) : (s.withPorts p).Inv := { h with }

@[simp] theorem withPorts_ports (s : State) (p : Inputs) : (s.withPorts p).ports = p := rfl

/-- The request sampled from the port is the word that the host offers there. -/
theorem offering_instr (req : Request) : (Inputs.offering req).instr = decode req :=
  congrArg decode (requestWord_opField_operandField req)

section AwaitAccept

variable {s : State}

/-- An offer to an idle block is accepted in the same step. -/
theorem awaitAccept_of_idle (k : Nat) (req : Request) (inIdle : s.phase = .idle) :
    awaitAccept (k + 1) (Inputs.offering req) s =
      .next ((s.withPorts (Inputs.offering req)).advance.accepted (decode req)) := by
  have ready : reqReady (Inputs.offering req) s = true := by simp [reqReady, inIdle, Inputs.offering, Inputs.quiet]
  rw [awaitAccept, step_of_offered (s := s.withPorts _) rfl inIdle rfl, withPorts_ports, offering_instr]
  exact if_pos ready

/-- An offer to a block in BUILD waits for one BUILD_STEP. -/
theorem awaitAccept_of_build (k : Nat) (req : Request) (inBuild : s.phase = .build) :
    awaitAccept (k + 1) (Inputs.offering req) s =
      awaitAccept k (Inputs.offering req) (buildStep (s.withPorts (Inputs.offering req)).advance) := by
  have busy : reqReady (Inputs.offering req) s = false := by simp [reqReady, inBuild]
  rw [awaitAccept, step_of_build (s := s.withPorts _) rfl inBuild]
  exact if_neg (by simp [busy])

/-- A host that waits longer than the build offers its request to an idle block `u`, which accepts it; the wait itself changes
neither the responses received nor `fault`. -/
theorem State.Inv.awaitAccept_accepts {bound : Nat} (h : s.Inv) (req : Request) (phase : s.phase = .idle ∨ s.phase = .build)
    (enough : buildStepsLeft s + 1 ≤ bound) :
    ∃ u : State, awaitAccept bound (Inputs.offering req) s = .next (u.accepted (decode req)) ∧
      u.Inv ∧ u.phase = .idle ∧ u.received = s.received ∧ u.fault = s.fault := by
  induction bound generalizing s with
  | zero => omega
  | succ k ih =>
    have h' := (h.withPorts (Inputs.offering req)).advance
    rcases phase with inIdle | inBuild
    · exact ⟨_, awaitAccept_of_idle k req inIdle, h', inIdle, rfl, rfl⟩
    · have oneLess : buildStepsLeft (Machine.buildStep (s.withPorts (Inputs.offering req)).advance) + 1 = buildStepsLeft s :=
        h'.buildStepsLeft_buildStep inBuild
      rw [awaitAccept_of_build k req inBuild]
      exact ih (h'.buildStep inBuild) (buildStep_phase_idle_or_build inBuild) (by omega)

end AwaitAccept

/-- The block is idle, and of all that the host observes the one response has been added. -/
structure State.Delivered (s : State) (r : Response) (t : State) : Prop where
  phase : t.phase = .idle
  received : t.received = s.received ++ [r]
  fault : t.fault = s.fault

section AwaitConsume

variable {s : State}

/-- A response on the port is taken in the same step. -/
theorem awaitConsume_of_resp (k : Nat) (inResp : s.phase = .resp) :
    awaitConsume (k + 1) s = .next (s.withPorts Inputs.taking).advance.consume := by
  have valid : rspValid s = true := by simp [rspValid, inResp]
  rw [awaitConsume, step_of_taken (s := s.withPorts _) rfl inResp rfl]
  exact if_pos valid

/-- In the loop the host waits for one ALT_STEP. -/
theorem awaitConsume_of_altLoop (k : Nat) (inLoop : s.phase = .altLoop) :
    awaitConsume (k + 1) s = awaitConsume k (altStep (s.withPorts Inputs.taking).advance) := by
  have notValid : rspValid s = false := by simp [rspValid, inLoop]
  rw [awaitConsume, step_of_altLoop (s := s.withPorts _) rfl inLoop]
  exact if_neg (by simp [notValid])

/-- A host that waits at all receives the response that stands on the port. -/
theorem awaitConsume_delivers_of_resp {bound : Nat} (inResp : s.phase = .resp) (enough : 1 ≤ bound) :
    ∃ t, awaitConsume bound s = .next t ∧ s.Delivered { err := s.rspErrQ, result := s.rspResultQ } t := by
  obtain ⟨k, rfl⟩ := Nat.exists_eq_add_of_le' enough
  exact ⟨_, awaitConsume_of_resp k inResp, rfl, rfl, rfl⟩

/-- A host that waits for the set bits that are left, for the completing step and for CONSUME receives their parity on top of
the accumulator (spec/41_bitclear.md R124, R125). -/
theorem awaitConsume_delivers_of_altLoop {bound : Nat} (inLoop : s.phase = .altLoop)
    (enough : popcount s.pceX + 2 ≤ bound) :
    ∃ t, awaitConsume bound s = .next t ∧
      s.Delivered { err := 0, result := zext16 (s.pceAcc ^^^ parity s.pceX) } t := by
  induction bound generalizing s with
  | zero => omega
  | succ k ih =>
    rw [awaitConsume_of_altLoop k inLoop]
    by_cases done : s.pceX = 0
    · rw [altStep_of_zero (s := (s.withPorts Inputs.taking).advance) done, done, parity_zero, BitVec.xor_zero]
      obtain ⟨t, taken, delivered⟩ :=
        awaitConsume_delivers_of_resp (bound := k) (respond_phase _ 0 (zext16 s.pceAcc)) (by omega)
      exact ⟨t, taken, delivered.phase, delivered.received, delivered.fault⟩
    · have fewer := popcount_clearLowest done
      rw [altStep_of_ne_zero (s := (s.withPorts Inputs.taking).advance) done, ← acc_xor_parity_clearLowest _ done]
      obtain ⟨t, taken, delivered⟩ := ih (s := { (s.withPorts Inputs.taking).advance with
        pceAcc := s.pceAcc ^^^ 1, pceX := clearLowest s.pceX }) inLoop (by simp only; omega)
      exact ⟨t, taken, delivered.phase, delivered.received, delivered.fault⟩

end AwaitConsume

/-- In an idle block with a complete table, the answer to the request that is accepted is received after the block's own steps. -/
theorem awaitConsume_delivers_answer {s : State} {i : Instr} {bound : Nat} (complete : s.RomComplete)
    (enough : blockSteps i + 1 ≤ bound) :
    ∃ t, awaitConsume bound (s.accepted i) = .next t ∧ (s.accepted i).Delivered (answer i) t := by
  rcases parityAlt_or_ne i with ⟨x, rfl⟩ | notAlt
  · simpa [accepted_parityAlt, answer] using
      awaitConsume_delivers_of_altLoop (s := s.startPce x) rfl enough
  · rw [← accepted_response_of_ne_parityAlt complete notAlt]
    exact awaitConsume_delivers_of_resp (accepted_phase_of_ne_parityAlt s notAlt) (by omega)

/-- Settles O38: the wait for ACCEPT, then the wait for CONSUME. -/
theorem scriptLineIsOneTransaction : Obligations.ScriptLineIsOneTransaction := by
  intro s i bound h phase enoughForBuild enoughForBlock
  obtain ⟨u, accepted, hu, inIdle, sameReceived, sameFault⟩ := h.awaitAccept_accepts (encode i) phase enoughForBuild
  rw [decode_encode] at accepted
  have complete : u.RomComplete := hu.built (by simp [inIdle])
  obtain ⟨t, taken, delivered⟩ := awaitConsume_delivers_answer complete enoughForBlock
  refine ⟨t, ?_, delivered.phase, ?_, ?_⟩
  · rw [runLine, accepted]
    exact taken
  · rw [delivered.received, accepted_received, sameReceived]
  · rw [delivered.fault, accepted_fault, sameFault]

end Sys2Proof.Machine

/-! The stages of the fold bit by bit (spec/40_fold.md R100, R102), the fold of a value narrower than the operand (R103), and the
response to PARITY (R105). -/

namespace Sys2Proof.Machine

open Sys2Proof

/-- The XOR of the bits that `bit` gives for the indices below `k`, in the order in which R102 lists them. -/
def xorBelow (k : Nat) (bit : Nat → Bool) : Bool := (List.range k).foldl (fun b m => b ^^ bit m) false

section XorBelow

variable (bit : Nat → Bool)

/-- One more index is one more summand. -/
theorem xorBelow_succ (k : Nat) : xorBelow (k + 1) bit = (xorBelow k bit ^^ bit k) := by
  rw [xorBelow, List.range_succ, List.foldl_concat, xorBelow]

/-- The indices below `2k` are the even and the odd ones. -/
theorem xorBelow_two_mul (k : Nat) :
    xorBelow (2 * k) bit = (xorBelow k (fun m => bit (2 * m)) ^^ xorBelow k (fun m => bit (2 * m + 1))) := by
  induction k with
  | zero => rfl
  | succ k ih =>
    rw [Nat.mul_succ, xorBelow_succ, xorBelow_succ, ih, xorBelow_succ, xorBelow_succ]
    simp only [Bool.xor_assoc, Bool.xor_left_comm]

/-- Positions from `i` on, `w` apart, are those `2 * w` apart from `i` on and from `w + i` on. -/
theorem xorBelow_positions (k i w : Nat) :
    xorBelow (2 * k) (fun m => bit (i + m * w)) =
      (xorBelow k (fun m => bit (i + m * (2 * w))) ^^ xorBelow k (fun m => bit (w + i + m * (2 * w)))) := by
  have even (m : Nat) : i + 2 * m * w = i + m * (2 * w) := by ring
  have odd (m : Nat) : i + (2 * m + 1) * w = w + i + m * (2 * w) := by ring
  simp only [xorBelow_two_mul, even, odd]

end XorBelow

/-- The number of positions halves with each stage (R100). -/
theorem positions_halve : ∀ j < 6, 64 / 2 ^ j = 2 * (64 / 2 ^ (j + 1)) := by decide

/-- The XOR that R102 gives for bit `i` after stage `j`: of the bits of `x` at the positions congruent to `i`. -/
def residueXor (j : Nat) (x : Word) (i : Nat) : Bool := xorBelow (2 ^ j) fun m => x.getLsbD (i + m * (64 / 2 ^ j))

/-- A class of the next stage is two of this stage, half of its modulus apart. -/
theorem residueXor_succ {j : Nat} (inRange : j < 6) (x : Word) (i : Nat) :
    residueXor (j + 1) x i = (residueXor j x i ^^ residueXor j x (64 / 2 ^ (j + 1) + i)) := by
  rw [residueXor, residueXor, residueXor, positions_halve j inRange, Nat.pow_succ']
  exact xorBelow_positions ..

/-- The shift of a stage is the number of positions it leaves (spec/00_scope.md R5, R100). -/
theorem foldShifts_getElem? : ∀ j < 6, Config.foldShifts[j]? = some (64 / 2 ^ (j + 1)) := by decide

/-- Each stage is a fold stage on the one before it (R100). -/
theorem foldAfter_succ {j : Nat} (inRange : j < 6) (x : Word) :
    foldAfter (j + 1) x = foldStage (foldAfter j x) (64 / 2 ^ (j + 1)) := by
  rw [foldAfter, List.take_add_one, foldShifts_getElem? j inRange, Option.toList_some, List.foldl_concat, foldAfter]

/-- A fold stage adds to each bit the one a shift above it. -/
theorem foldStage_getLsbD (v : Word) (shift i : Nat) :
    (foldStage v shift).getLsbD i = (v.getLsbD i ^^ v.getLsbD (shift + i)) := by
  rw [foldStage, BitVec.getLsbD_xor, BitVec.getLsbD_ushiftRight]

/-- The invariant of R102, by induction on the stages. -/
theorem foldAfter_getLsbD {j : Nat} (inRange : j ≤ 6) (x : Word) :
    ∀ i < 64 / 2 ^ j, (foldAfter j x).getLsbD i = residueXor j x i := by
  induction j with
  | zero => intro i _; simp [foldAfter, residueXor, xorBelow]
  | succ j ih =>
    intro i below
    have halved := positions_halve j inRange
    have held := ih (Nat.le_of_succ_le inRange)
    rw [foldAfter_succ inRange, foldStage_getLsbD, held i (by omega), held _ (by omega), residueXor_succ inRange]

/-- Settles O18: the invariant of the stages, and what it comes to for the one bit that is left. -/
theorem foldStagesHoldPartialParities : Obligations.FoldStagesHoldPartialParities :=
  fun x => ⟨fun _ i inRange below => foldAfter_getLsbD inRange x i below, fold_eq_parity x⟩

/-- A stage with a shift of at least the width of an address brings nothing down onto it (R103). -/
theorem foldStage_zext64 (a : Chunk) {shift : Nat} (beyond : 16 ≤ shift) : foldStage (zext64 a) shift = zext64 a := by
  refine BitVec.eq_of_getLsbD_eq fun i _ => ?_
  have noHighBit : (zext64 a).getLsbD (shift + i) = false := by
    simp [zext64, BitVec.getLsbD_of_ge a (shift + i) (by omega)]
  rw [foldStage_getLsbD, noHighBit, Bool.xor_false]

/-- Settles O19: the first two shifts, 32 and 16, are beyond a 16-bit value. -/
theorem foldOfAnAddress : Obligations.FoldOfAnAddress := by
  intro a
  have stage1 : foldAfter 1 (zext64 a) = zext64 a := foldStage_zext64 a (shift := 32) (by decide)
  have stage2 : foldAfter 2 (zext64 a) = zext64 a := by
    rw [foldAfter_succ (by decide), stage1]
    exact foldStage_zext64 a (by decide)
  exact ⟨stage1, stage2, fold_zext64 a⟩

/-- Settles O12: in IDLE the operation answers with the fold, which is the parity. -/
theorem parityAnswersParity : Obligations.ParityAnswersParity := by
  intro x s inIdle
  rw [exec_of_idle _ inIdle, State.accepted, fold_eq_parity, State.respond]

end Sys2Proof.Machine

/-! The predecessor of a word and its lowest set bit (spec/41_bitclear.md R123), and the bounds of the number of set bits. -/

namespace Sys2Proof.Machine

open Sys2Proof

section LowestSetBit

variable {v : Word} {k : Nat} (isSet : v.getLsbD k = true) (noneBelow : ∀ i < k, v.getLsbD i = false)

/-- `v - 1` inverts the bits of the negation, so it inverts the bits of `v` that have no set bit below them. -/
theorem sub_one_getLsbD (v : Word) {i : Nat} (inRange : i < 64) :
    (v - 1).getLsbD i = (v.getLsbD i ^^ !decide (∃ j < i, v.getLsbD j = true)) := by
  have predecessor : v - 1 = ~~~(-v) := (BitVec.not_neg v).symm
  rw [predecessor, BitVec.getLsbD_not, BitVec.getLsbD_neg]
  simp [inRange]

/-- The predecessor of a value other than 0 does not wrap. -/
theorem sub_one_toNat (nonzero : v ≠ 0) : (v - 1).toNat + 1 = v.toNat := by
  bv_omega

/-- A value other than 0 has a lowest set bit. -/
theorem exists_lowest_set_bit (nonzero : v ≠ 0) : ∃ k < 64, v.getLsbD k = true ∧ ∀ i < k, v.getLsbD i = false := by
  obtain ⟨j, inRange, isSet⟩ := (popcountBelow_pos_iff v 64).mp (popcount_pos_of_ne_zero nonzero)
  have someSet : ∃ k, v.getLsbD k = true := ⟨j, isSet⟩
  refine ⟨Nat.find someSet, (Nat.find_min' someSet isSet).trans_lt inRange, Nat.find_spec someSet, fun i below => ?_⟩
  exact Bool.eq_false_iff.mpr (Nat.find_min someSet below)

include isSet

/-- A value with a set bit is not 0. -/
theorem ne_zero_of_getLsbD : v ≠ 0 := by
  rintro rfl
  simp at isSet

include noneBelow

/-- The positions with a set bit below them are those above the lowest set bit. -/
theorem exists_set_below_iff (i : Nat) : (∃ j < i, v.getLsbD j = true) ↔ k < i := by
  refine ⟨fun ⟨j, below, setBelow⟩ => ?_, fun above => ⟨k, above, isSet⟩⟩
  have notLower : ¬ j < k := fun lower => by simp [noneBelow j lower] at setBelow
  omega

/-- The predecessor inverts `v` from the lowest set bit down. -/
theorem sub_one_getLsbD_of_lowest {i : Nat} (inRange : i < 64) :
    (v - 1).getLsbD i = (v.getLsbD i ^^ decide (i ≤ k)) := by
  simp only [sub_one_getLsbD v inRange, exists_set_below_iff isSet noneBelow, ← decide_not, Nat.not_lt]

/-- `v & (v - 1)` is `v` without its lowest set bit. -/
theorem clearLowest_getLsbD_of_lowest (i : Nat) : (clearLowest v).getLsbD i = (v.getLsbD i && i != k) := by
  simp only [clearLowest_getLsbD, exists_set_below_iff isSet noneBelow]
  rcases Nat.lt_trichotomy i k with below | same | above
  · simp [noneBelow i below]
  · simp [same]
  · simp [above, Nat.ne_of_gt above]

end LowestSetBit

/-- Settles O20: the bits of the predecessor and of the AND by where they stand to the lowest set bit, which every value other
than 0 has. -/
theorem clearLowestSetBit : Obligations.ClearLowestSetBit := by
  refine ⟨fun v k inRange isSet noneBelow => ?_, fun v nonzero => exists_lowest_set_bit nonzero, fun s done => ?_⟩
  · have nonzero := ne_zero_of_getLsbD isSet
    have predecessor {i : Nat} := sub_one_getLsbD_of_lowest (i := i) isSet noneBelow
    refine ⟨fun i above hi => ?_, ?_, fun i below => ?_, fun i _ => clearLowest_getLsbD_of_lowest isSet noneBelow i,
      popcount_clearLowest nonzero, sub_one_toNat nonzero⟩
    · rw [predecessor hi]; simp [Nat.not_le_of_gt above]
    · rw [predecessor inRange]; simp [isSet]
    · rw [predecessor (below.trans inRange)]; simp [noneBelow i below, Nat.le_of_lt below]
  · simp [done]

/-- There are at most as many set bits below a position as positions. -/
theorem popcountBelow_le {n : Nat} (v : BitVec n) (k : Nat) : popcountBelow v k ≤ k := by
  induction k with
  | zero => exact Nat.le_refl 0
  | succ k ih => exact Nat.add_le_add ih (Bool.toNat_le _)

/-- Of a word of ones every position counts. -/
theorem popcountBelow_allOnes {n k : Nat} (inRange : k ≤ n) : popcountBelow (BitVec.allOnes n) k = k := by
  induction k with
  | zero => rfl
  | succ k ih => simp [popcountBelow, ih (Nat.le_of_succ_le inRange), Nat.lt_of_succ_le inRange]

/-- The number of set bits is at most the width. -/
theorem popcount_le {n : Nat} (v : BitVec n) : popcount v ≤ n := popcountBelow_le v n

/-- In a word of ones every bit is set. -/
theorem popcount_allOnes (n : Nat) : popcount (BitVec.allOnes n) = n := popcountBelow_allOnes (Nat.le_refl n)

/-- Only the value 0 has no set bit. -/
theorem popcount_eq_zero_iff {n : Nat} (v : BitVec n) : popcount v = 0 ↔ v = 0 := by
  constructor
  · intro none
    by_contra nonzero
    exact absurd none (popcount_pos_of_ne_zero nonzero).ne'
  · rintro rfl
    simpa [popcount] using (popcountBelow_pos_iff (0 : BitVec n) n).not.mpr (by simp)

end Sys2Proof.Machine

/-! The loop of PARITY_ALT (spec/41_bitclear.md R121, R122): how many ALT_STEPs it takes (R124) and what they keep (R125). -/

namespace Sys2Proof.Machine

open Sys2Proof

/-- In IDLE, PARITY_ALT loads PCE (R121). -/
theorem exec_parityAlt_of_idle {s : State} (x : Word) (inIdle : s.phase = .idle) :
    exec (.parityAlt x) s = .next (s.startPce x) := by
  rw [exec_of_idle _ inIdle, accepted_parityAlt]

/-- Settles O13: in IDLE the operation loads PCE. -/
theorem parityAltLoadsTheEngine : Obligations.ParityAltLoadsTheEngine := by
  intro x s inIdle
  rw [exec_parityAlt_of_idle x inIdle, State.startPce]

/-- Settles O21: the enabling condition by cases on the enabled event, and the two branches of the step. -/
theorem altStepEffect : Obligations.AltStepEffect := by
  refine ⟨fun p s => ⟨fun enabled => ?_, fun ⟨released, inLoop⟩ => ?_⟩,
    fun s _ => ⟨fun more => altStep_of_ne_zero more, fun done => altStep_of_zero done⟩⟩
  · rcases enabledEvent_cases p s with ⟨_, e⟩ | ⟨_, _, e⟩ | ⟨_, _, _, e⟩ | ⟨_, _, _, e⟩ | ⟨released, inLoop, _⟩ |
      ⟨_, _, _, e⟩ | ⟨_, _, _, e⟩
    any_goals exact absurd (e.symm.trans enabled) nofun
    exact ⟨released, inLoop⟩
  · simp [enabledEvent, released, inLoop]

/-- A block that is still in ALT_LOOP after an ALT_STEP was there before it, and had a set bit to clear. -/
theorem loop_of_altStep_loop {s : State} (inLoop : (altStep s).phase = .altLoop) :
    s.phase = .altLoop ∧ s.pceX ≠ 0 := by
  have more : s.pceX ≠ 0 := fun done => by simp [altStep_of_zero done] at inLoop
  rw [altStep_of_ne_zero more] at inLoop
  exact ⟨inLoop, more⟩

/-- An iterating ALT_STEP keeps the accumulator together with the parity of what is left (R125). -/
theorem altStep_acc_xor_parity {s : State} (more : s.pceX ≠ 0) :
    (altStep s).pceAcc ^^^ parity (altStep s).pceX = s.pceAcc ^^^ parity s.pceX := by
  rw [altStep_of_ne_zero more]
  exact acc_xor_parity_clearLowest s.pceAcc more

/-- The invariant of R125 in every state of the loop. -/
theorem iterate_altStep_acc_xor_parity {s : State} (j : Nat) (inLoop : (altStep^[j] s).phase = .altLoop) :
    (altStep^[j] s).pceAcc ^^^ parity (altStep^[j] s).pceX = s.pceAcc ^^^ parity s.pceX := by
  induction j with
  | zero => rfl
  | succ j ih =>
    rw [Function.iterate_succ_apply'] at inLoop ⊢
    obtain ⟨stillInLoop, more⟩ := loop_of_altStep_loop inLoop
    rw [altStep_acc_xor_parity more, ih stillInLoop]

/-- While set bits are left, each ALT_STEP stays in the loop and clears one of them (R124). -/
theorem iterate_altStep_loop {s : State} (inLoop : s.phase = .altLoop) {j : Nat} (few : j ≤ popcount s.pceX) :
    (altStep^[j] s).phase = .altLoop ∧ popcount (altStep^[j] s).pceX + j = popcount s.pceX := by
  induction j with
  | zero => exact ⟨inLoop, rfl⟩
  | succ j ih =>
    obtain ⟨stillInLoop, counted⟩ := ih (Nat.le_of_succ_le few)
    have more : (altStep^[j] s).pceX ≠ 0 := by
      rw [Ne, ← popcount_eq_zero_iff]
      omega
    have fewer := popcount_clearLowest more
    rw [Function.iterate_succ_apply', altStep_of_ne_zero more]
    exact ⟨stillInLoop, by simp only; omega⟩

/-- After as many ALT_STEPs as there are set bits, nothing is left (R124). -/
theorem iterate_altStep_popcount {s : State} (inLoop : s.phase = .altLoop) :
    (altStep^[popcount s.pceX] s).pceX = 0 := by
  have counted := (iterate_altStep_loop inLoop (Nat.le_refl _)).2
  exact (popcount_eq_zero_iff _).mp (by omega)

/-- The ALT_STEP after those finds nothing left and answers with the accumulator (R122). -/
theorem iterate_altStep_completes {s : State} (inLoop : s.phase = .altLoop) :
    altStep^[popcount s.pceX + 1] s =
      (altStep^[popcount s.pceX] s).respond 0 (zext16 (altStep^[popcount s.pceX] s).pceAcc) := by
  rw [Function.iterate_succ_apply', altStep_of_zero (iterate_altStep_popcount inLoop)]

/-- With nothing left, the accumulator of R125 is the parity of what the loop started with. -/
theorem iterate_altStep_acc {s : State} (inLoop : s.phase = .altLoop) :
    (altStep^[popcount s.pceX] s).pceAcc = s.pceAcc ^^^ parity s.pceX := by
  obtain ⟨stillInLoop, _⟩ := iterate_altStep_loop inLoop (Nat.le_refl _)
  rw [← iterate_altStep_acc_xor_parity _ stillInLoop, iterate_altStep_popcount inLoop, parity_zero, BitVec.xor_zero]

/-- A response that is held stands on the port (spec/10_state.md R25). -/
theorem rspPort_respond (s : State) (err : Bit) (result : Result) :
    rspPort (s.respond err result) = some { err := err, result := result } := rfl

/-- Settles O22: the loop counts down the set bits of the operand, of which there are at most 64. -/
theorem altStepCount : Obligations.AltStepCount := by
  refine ⟨fun x s t inIdle accepted => ?_, (popcount_eq_zero_iff _).mpr rfl, popcount_allOnes 64⟩
  cases (exec_parityAlt_of_idle x inIdle).symm.trans accepted
  have inLoop := startPce_phase s x
  have counts {j : Nat} (few : j ≤ popcount x) := iterate_altStep_loop inLoop few
  have emptied := iterate_altStep_popcount inLoop
  have completes := iterate_altStep_completes inLoop
  rw [startPce_pceX] at emptied completes
  refine ⟨fun j => counts, fun j fewer done => ?_, emptied, ?_, Nat.add_le_add_right (popcount_le x) 1⟩
  · have counted := (counts fewer.le).2
    rw [(popcount_eq_zero_iff _).mpr done, startPce_pceX] at counted
    omega
  · rw [completes, respond_phase]

/-- Settles O23: the loop starts with accumulator 0 and the whole operand, and ends with its parity in the accumulator. -/
theorem loopInvariant : Obligations.LoopInvariant := by
  intro x s t inIdle accepted
  cases (exec_parityAlt_of_idle x inIdle).symm.trans accepted
  have inLoop := startPce_phase s x
  have atStart : (s.startPce x).pceAcc ^^^ parity (s.startPce x).pceX = parity x := BitVec.zero_xor
  refine ⟨fun j stillInLoop => (iterate_altStep_acc_xor_parity j stillInLoop).trans atStart, ?_⟩
  have completes := iterate_altStep_completes inLoop
  rw [iterate_altStep_acc inLoop, atStart, startPce_pceX] at completes
  rw [completes, rspPort_respond]

end Sys2Proof.Machine

/-! A lookup outside BUILD (spec/42_lookup.md R142 to R145), the agreement of the three operations (R146), and the acceptance of a
request, which only a block with a complete table does (R147). -/

namespace Sys2Proof.Machine

open Sys2Proof

/-- Bit `i` of a lookup is the XOR of bit `i` of the four entries (R142). -/
theorem lookup_getLsbD (s : State) (x : Word) (i : Nat) :
    (lookup s x).getLsbD i =
      ((romRead s (chunk 3 x)).getLsbD i ^^ (romRead s (chunk 2 x)).getLsbD i ^^
        (romRead s (chunk 1 x)).getLsbD i ^^ (romRead s (chunk 0 x)).getLsbD i) := by
  simp only [lookup, BitVec.getLsbD_xor]

/-- In IDLE, PARITY_LOOKUP answers with the lookup (R143). -/
theorem exec_parityLookup_of_idle {s : State} (x : Word) (inIdle : s.phase = .idle) :
    exec (.parityLookup x) s = .next (s.respond 0 (lookup s x)) := by
  rw [exec_of_idle _ inIdle, State.accepted]

/-- Settles O14: in IDLE the operation answers with the lookup, which a complete table makes the parity. -/
theorem parityLookupAnswersParity : Obligations.ParityLookupAnswersParity := by
  intro x s inIdle
  refine ⟨exec_parityLookup_of_idle x inIdle, fun complete => ?_⟩
  rw [exec_parityLookup_of_idle x inIdle, complete.lookup_eq_parity, State.respond]

/-- Settles O27: the invariant makes the table complete outside BUILD. -/
theorem lookupClosedForm : Obligations.LookupClosedForm := by
  intro s x h notBuild
  have complete := h.built notBuild
  exact ⟨complete.lookup x, complete.lookup_eq_parity x⟩

/-- Settles O26: outside BUILD an entry, and so a lookup, is one bit widened. -/
theorem lookupResultRange : Obligations.LookupResultRange := by
  intro s x h notBuild
  have complete := h.built notBuild
  refine ⟨fun a i pos => ?_, fun i pos => ?_, lookup_getLsbD s x 0, ?_⟩
  · rw [complete a]
    exact zext16_getLsbD_of_pos _ pos
  · rw [complete.lookup_eq_parity]
    exact zext16_getLsbD_of_pos _ pos
  · rw [complete.lookup_eq_parity]
    exact zext16_eq_zero_or_one _

/-- Settles O28: the response of each operation, for PARITY_ALT by the invariant of its loop. -/
theorem threeOperationsAgree : Obligations.ThreeOperationsAgree := by
  intro s x h inIdle
  have complete : s.RomComplete := h.built (by simp [inIdle])
  have answeredByLoop := (loopInvariant x s _ inIdle (exec_parityAlt_of_idle x inIdle)).2
  refine ⟨complete.lookup_eq_parity x, _, _, _, parityAnswersParity x s inIdle, exec_parityAlt_of_idle x inIdle,
    (parityLookupAnswersParity x s inIdle).2 complete, ?_, ?_, ?_⟩
  · exact rspPort_respond s 0 _
  · exact answeredByLoop
  · rfl

/-- A request transfers in IDLE only (spec/43_transactions.md R171, R176). -/
theorem idle_of_enabledEvent_accept {p : Inputs} {s : State} {i : Instr} (enabled : enabledEvent p s = .accept i) :
    s.phase = .idle := by
  rcases enabledEvent_cases p s with ⟨_, e⟩ | ⟨_, _, e⟩ | ⟨_, inIdle, _⟩ | ⟨_, _, _, e⟩ | ⟨_, _, e⟩ | ⟨_, _, _, e⟩ |
    ⟨_, _, _, e⟩
  any_goals exact absurd (e.symm.trans enabled) nofun
  exact inIdle

/-- Settles O33: a request is accepted in IDLE, where the invariant of the reachable states has the table complete. -/
theorem acceptNeedsTheTable : Obligations.AcceptNeedsTheTable := by
  intro c s i reachable enabled
  have inIdle := idle_of_enabledEvent_accept enabled
  exact ⟨reachable.inv.built (by simp [inIdle]), by simp [initDone, inIdle]⟩

end Sys2Proof.Machine

/-! One BUILD_STEP, whatever the ROM holds (spec/42_lookup.md R150), and the build as a run of them (R151, R152). -/

namespace Sys2Proof.Machine

open Sys2Proof

/-- BUILD_STEP is enabled in BUILD without reset, and only there (R150). -/
theorem enabledEvent_eq_buildStep_iff (p : Inputs) (s : State) :
    enabledEvent p s = .buildStep ↔ p.rst = false ∧ s.phase = .build := by
  constructor
  · intro enabled
    rcases enabledEvent_cases p s with ⟨_, e⟩ | ⟨released, inBuild, _⟩ | ⟨_, _, _, e⟩ | ⟨_, _, _, e⟩ | ⟨_, _, e⟩ |
      ⟨_, _, _, e⟩ | ⟨_, _, _, e⟩
    any_goals exact absurd (e.symm.trans enabled) nofun
    exact ⟨released, inBuild⟩
  · rintro ⟨released, inBuild⟩
    simp [enabledEvent, released, inBuild]

section AtIndex

variable {s : State} {i : Chunk} (atIndex : s.buildIdx.toNat = i.toNat)
include atIndex

theorem buildAddress_eq : buildAddress s = i := by
  refine BitVec.eq_of_toNat_eq ?_
  rw [buildAddress_toNat, atIndex, Nat.mod_eq_of_lt i.isLt]

/-- From an address the index is counted up without wrapping. -/
theorem buildStep_buildIdx_toNat_of_address : (buildStep s).buildIdx.toNat = i.toNat + 1 := by
  have inRange : i.toNat < 65536 := i.isLt
  rw [buildStep_buildIdx, BitVec.toNat_add, atIndex]
  exact Nat.mod_eq_of_lt (show i.toNat + 1 < 2 ^ 17 by omega)

/-- The last address ends the build. -/
theorem buildStep_phase_of_address (inBuild : s.phase = .build) :
    (buildStep s).phase = if i.toNat = 65535 then .idle else .build := by
  have last : s.buildIdx = 65535 ↔ i.toNat = 65535 := by rw [← atIndex]; exact BitVec.toNat_inj.symm
  simp only [buildStep_phase, inBuild, last]

end AtIndex

/-- Settles O29: the entry written, the entries left alone, and the index and the phase after the step. -/
theorem buildStepWritesOneEntry : Obligations.BuildStepWritesOneEntry := by
  refine ⟨enabledEvent_eq_buildStep_iff, fun s i buildMode inBuild atIndex => ?_⟩
  have address := buildAddress_eq atIndex
  have written : romRead (buildStep s) i = zext16 (fold (zext64 i)) := address ▸ buildStep_romRead_self buildMode
  exact ⟨written, written.trans (by rw [fold_zext64]), fun a other => buildStep_romRead_ne s (address ▸ other),
    buildStep_buildIdx_toNat_of_address atIndex, buildStep_phase_of_address atIndex inBuild, rfl, rfl, rfl, rfl, rfl, rfl⟩

/-- A run of one step more takes its last step from the state the shorter run ends in. -/
theorem run_succ_of_run {k : Nat} {s t : State} (ran : run k s = .next t) : run (k + 1) s = step t := by
  induction k generalizing s with
  | zero =>
    cases ran
    rw [run]
    cases step t <;> rfl
  | succ k ih =>
    rw [run] at ran ⊢
    cases stepped : step s with
    | next u => exact ih (by simpa only [stepped] using ran)
    | fault r => simp [stepped] at ran
    | refused r => simp [stepped] at ran

/-- A state that `k` steps lead to samples entry `k` of the schedule, so no reset when none of the first `n > k` entries has one. -/
theorem ports_rst_of_inputs_drop {s t : State} {n k : Nat} (released : ∀ p ∈ s.inputs.take n, p.rst = false) (early : k < n)
    (spent : t.inputs = s.inputs.drop k) : t.ports.rst = false := by
  rw [State.ports, spent, List.headD_eq_head?_getD, List.head?_drop]
  cases sampled : s.inputs[k]? with
  | none => rfl
  | some p => exact released p (List.mem_of_getElem? ((List.getElem?_take_of_lt early).trans sampled))

/-- What `k` uninterrupted BUILD_STEPs make of a state `s` at the start of the build (R151). -/
structure State.BuiltTo (s : State) (k : Nat) (t : State) : Prop where
  config : t.config = s.config
  phase : t.phase = if k = 65536 then .idle else .build
  buildIdx : t.buildIdx.toNat = k
  rom : t.RomBuiltBelow k
  received : t.received = s.received
  fault : t.fault = s.fault
  inputs : t.inputs = s.inputs.drop k

namespace State.BuiltTo

variable {s t : State} {k : Nat}

theorem inBuild (built : s.BuiltTo k t) (unfinished : k < 65536) : t.phase = .build := by
  rw [built.phase, if_neg unfinished.ne]

/-- One BUILD_STEP more builds one entry more: the one at the index, with the entries below it kept (R150). -/
theorem buildStep (built : s.BuiltTo k t) (buildMode : s.config.romPreloaded = false) (unfinished : k < 65536) :
    s.BuiltTo (k + 1) (buildStep t.advance) := by
  have addressed : (BitVec.ofNat 16 k).toNat = k := Nat.mod_eq_of_lt unfinished
  obtain ⟨-, written, kept, counted, phase, -⟩ := buildStepWritesOneEntry.2 t.advance (BitVec.ofNat 16 k)
    (built.config ▸ buildMode) (built.inBuild unfinished) (built.buildIdx.trans addressed.symm)
  rw [addressed] at counted phase
  have builtNow : (Machine.buildStep t.advance).RomBuiltBelow (k + 1) := fun a below => by
    by_cases atIndex : a = BitVec.ofNat 16 k
    · rw [atIndex, written, tableEntry]
    · have earlier : a.toNat ≠ k := fun eq => atIndex (BitVec.eq_of_toNat_eq (eq.trans addressed.symm))
      rw [kept a atIndex]
      exact built.rom a (by omega)
  exact {
    config := built.config
    phase := phase.trans (by simp)
    buildIdx := counted
    rom := builtNow
    received := built.received
    fault := built.fault
    inputs := by rw [buildStep_inputs, advance_inputs, built.inputs, List.tail_drop] }

/-- The table is complete when every address is below the index (R152). -/
theorem romComplete (built : s.BuiltTo 65536 t) : t.RomComplete := fun a => built.rom a a.isLt

end State.BuiltTo

/-- The build takes its steps one after another, as long as no reset interrupts it (R151). -/
theorem run_builtTo {s : State} (buildMode : s.config.romPreloaded = false) (inBuild : s.phase = .build)
    (atStart : s.buildIdx = 0) (released : ∀ p ∈ s.inputs.take 65536, p.rst = false) {k : Nat} (within : k ≤ 65536) :
    ∃ t, run k s = .next t ∧ s.BuiltTo k t := by
  induction k with
  | zero =>
    have builtNone : s.RomBuiltBelow 0 := fun _ below => absurd below (Nat.not_lt_zero _)
    exact ⟨s, rfl, rfl, inBuild, congrArg BitVec.toNat atStart, builtNone, rfl, rfl, rfl⟩
  | succ k ih =>
    obtain ⟨t, ran, built⟩ := ih (Nat.le_of_succ_le within)
    have noReset := ports_rst_of_inputs_drop released within built.inputs
    exact ⟨_, (run_succ_of_run ran).trans (step_of_build noReset (built.inBuild within)), built.buildStep buildMode within⟩

/-- Settles O30, by induction on the number of BUILD_STEPs. -/
theorem buildFillsTheTable : Obligations.BuildFillsTheTable := by
  intro s buildMode inBuild atStart released
  have ranTo {k : Nat} (within : k ≤ 65536) := run_builtTo buildMode inBuild atStart released within
  constructor
  · intro k unfinished
    obtain ⟨t, ran, built⟩ := ranTo unfinished.le
    have stillBuild := built.inBuild unfinished
    exact ⟨t, ran, stillBuild, built.buildIdx, built.rom, (enabledEvent_eq_buildStep_iff t.ports t).mpr
      ⟨ports_rst_of_inputs_drop released unfinished built.inputs, stillBuild⟩⟩
  · obtain ⟨t, ran, built⟩ := ranTo (Nat.le_refl _)
    exact ⟨t, ran, built.phase, built.buildIdx, built.romComplete, built.received, built.fault, built.inputs⟩

end Sys2Proof.Machine

/-! The handshake (spec/43_transactions.md R171, R172, R176): when a request transfers, what a block that is not ready ignores, and
the request that a waiting host keeps. -/

namespace Sys2Proof.Machine

open Sys2Proof

/-- ACCEPT happens exactly when `req_ready` and `req_valid` are both 1, and it is of the sampled request (R171, R176). -/
theorem enabledEvent_eq_accept_iff (p : Inputs) (s : State) (i : Instr) :
    enabledEvent p s = .accept i ↔ reqReady p s = true ∧ p.reqValid = true ∧ p.instr = i := by
  rcases enabledEvent_cases p s with ⟨asserted, e⟩ | ⟨_, phase, e⟩ | ⟨released, phase, offered, e⟩ | ⟨_, _, absent, e⟩ |
    ⟨_, phase, e⟩ | ⟨_, phase, _, e⟩ | ⟨_, phase, _, e⟩ <;> rw [e]
  · simp [reqReady, asserted]
  · simp [reqReady, phase]
  · simp [reqReady, released, phase, offered]
  · simp [absent]
  all_goals simp [reqReady, phase]

/-- `req_ready = 1` is IDLE without reset (spec/10_state.md R25). -/
theorem reqReady_eq_true_iff (p : Inputs) (s : State) : reqReady p s = true ↔ s.phase = .idle ∧ p.rst = false := by
  simp [reqReady]

/-- A request that is offered to a ready block is performed. -/
theorem step_of_ready {s : State} (ready : reqReady s.ports s = true) (offered : s.ports.reqValid = true) :
    step s = exec s.ports.instr s.advance :=
  step_of_accept ((enabledEvent_eq_accept_iff _ s _).mpr ⟨ready, offered, rfl⟩)

/-- Settles O8: reset released and IDLE make the block ready for the offered request. -/
theorem stepRunsTheDecodedRequest : Obligations.StepRunsTheDecodedRequest :=
  fun s released inIdle offered => step_of_ready ((reqReady_eq_true_iff _ s).mpr ⟨inIdle, released⟩) offered

/-- The request placed by a table number is the word of the operation that it reads as. -/
theorem withFetchWord_of_decoded {nbits w : Nat} {i : Instr} (s : State) (read : decodeTableWord nbits w = some i) :
    s.withFetchWord nbits w = s.offerRequest (encode i) := by
  rw [State.withFetchWord, decodeTableWord_eq_some_iff.mp read, BitVec.ofNat_toNat, BitVec.setWidth_eq]

/-- The operation sampled from a placed request is the one its word decodes to. -/
theorem offerRequest_ports_instr (s : State) (req : Request) : (s.offerRequest req).ports.instr = decode req :=
  congrArg decode (requestWord_opField_operandField req)

/-- Settles O9: the placed word is offered to a block that is ready for it. -/
theorem fetchWordRunsNext : Obligations.FetchWordRunsNext := by
  intro s nbits w i read
  have performed := step_of_ready (s := s.offerRequest (encode i)) rfl rfl
  rw [offerRequest_ports_instr, decode_encode] at performed
  rw [withFetchWord_of_decoded s read, performed]
  rfl

section WaitingByPhase

variable {s : State}

/-- A step with `rst = 1` is RESET (spec/70_reset_and_hazards.md R220). -/
theorem step_of_reset (asserted : s.ports.rst = true) : step s = .next s.advance.resetStep :=
  step_of_enabled (e := .reset) (by simp [enabledEvent, asserted]) nofun

/-- An idle block to which nothing is offered waits. -/
theorem step_of_unoffered (released : s.ports.rst = false) (inIdle : s.phase = .idle) (absent : s.ports.reqValid = false) :
    step s = .next s.advance :=
  step_of_enabled (e := .wait) (by simp [enabledEvent, released, inIdle, absent]) nofun

/-- A response that is not taken waits. -/
theorem step_of_untaken (released : s.ports.rst = false) (inResp : s.phase = .resp) (untaken : s.ports.rspReady = false) :
    step s = .next s.advance :=
  step_of_enabled (e := .wait) (by simp [enabledEvent, released, inResp, untaken]) nofun

end WaitingByPhase

/-- Settles O10, one clause for each phase and port level. -/
theorem stepFollowsTheRelation : Obligations.StepFollowsTheRelation :=
  fun s => ⟨step_of_reset, step_of_build, stepRunsTheDecodedRequest s, step_of_unoffered, step_of_altLoop, step_of_taken,
    step_of_untaken⟩

/-- While `req_ready = 0`, the enabled step depends on `rst` and `rsp_ready` alone among the ports (R171). -/
theorem enabledEvent_congr_of_busy {p q : Inputs} {s : State} (busy : reqReady p s = false) (sameReset : q.rst = p.rst)
    (sameTake : q.rspReady = p.rspReady) : enabledEvent q s = enabledEvent p s := by
  unfold enabledEvent
  rw [sameReset, sameTake]
  cases released : p.rst with
  | true => rfl
  | false => cases phase : s.phase with
    | idle => simp [reqReady, phase, released] at busy
    | build | altLoop | resp => rfl

/-- A block that is not ready accepts nothing. -/
theorem enabledEvent_ne_accept_of_busy {p : Inputs} {s : State} (busy : reqReady p s = false) (i : Instr) :
    enabledEvent p s ≠ .accept i := fun accepts =>
  Bool.eq_false_iff.mp busy ((enabledEvent_eq_accept_iff p s i).mp accepts).1

/-- Settles O17: the same internal step is enabled, and it does not see the port levels of the step that it spends. -/
theorem busyBlockIgnoresRequests : Obligations.BusyBlockIgnoresRequests := by
  refine ⟨fun i s notIdle => by rw [exec_eq_accept, accept_busy notIdle], ?_⟩
  intro s p q rest scheduled busy sameReset sameTake
  have sampled : s.ports = p := by rw [State.ports, scheduled, List.headD_cons]
  have sameEvent : enabledEvent q s = enabledEvent p s := enabledEvent_congr_of_busy busy sameReset sameTake
  have notAccept := enabledEvent_ne_accept_of_busy busy
  have sameRest : State.advance { s with inputs := q :: rest } = s.advance := by
    simp only [State.advance, scheduled, List.tail_cons]
  rw [step_of_enabled (s := { s with inputs := q :: rest }) sameEvent notAccept,
    step_of_enabled (congrArg (enabledEvent · s) sampled) notAccept, sameRest]

/-- The ports sampled after a step are the next ones of the schedule. -/
theorem step_ports {s t : State} (stepped : step s = .next t) : t.ports = s.advance.ports := by
  rw [State.ports, step_inputs stepped]
  rfl

/-- A run is its first step and the run from there. -/
theorem run_succ_of_step {s u : State} (stepped : step s = .next u) (k : Nat) : run (k + 1) s = run k u := by
  rw [run, stepped]

/-- A run that leads to a state took a first step that led to one. -/
theorem exists_step_of_run_succ {k : Nat} {s t : State} (ran : run (k + 1) s = .next t) :
    ∃ u, step s = .next u ∧ run k u = .next t := by
  rw [run] at ran
  cases stepped : step s with
  | next u => exact ⟨u, rfl, by simpa only [stepped] using ran⟩
  | fault r => simp [stepped] at ran
  | refused r => simp [stepped] at ran

/-- A request that the host keeps through `n` steps in which it is not accepted is on the port after them (R171, R179). -/
theorem run_keeps_request {n : Nat} {s t : State} (offered : s.ports.reqValid = true)
    (held : ∀ (k : Nat) (u : State), k < n → run k s = .next u → reqReady u.ports u = false ∧ u.hostHoldsRequest)
    (ran : run n s = .next t) : t.ports.reqValid = true ∧ t.ports.request = s.ports.request := by
  induction n generalizing s with
  | zero =>
    cases ran
    exact ⟨offered, rfl⟩
  | succ n ih =>
    obtain ⟨u, stepped, ranOn⟩ := exists_step_of_run_succ ran
    obtain ⟨busy, keeps⟩ := held 0 s n.succ_pos rfl
    obtain ⟨stillOffered, sameRequest⟩ := keeps offered busy
    rw [← step_ports stepped] at stillOffered sameRequest
    have heldOn (k : Nat) (v : State) (early : k < n) (reached : run k u = .next v) :
        reqReady v.ports v = false ∧ v.hostHoldsRequest :=
      held (k + 1) v (Nat.succ_lt_succ early) ((run_succ_of_step stepped k).trans reached)
    obtain ⟨offeredAtEnd, kept⟩ := ih stillOffered heldOn ranOn
    exact ⟨offeredAtEnd, kept.trans sameRequest⟩

/-- Settles O40: the request is kept through the wait, and a ready block performs the one that is offered. -/
theorem heldRequestIsTheOnePerformed : Obligations.HeldRequestIsTheOnePerformed := by
  intro n s t offered held ran
  obtain ⟨offeredAtEnd, sameRequest⟩ := run_keeps_request offered held ran
  have sameInstr : t.ports.instr = s.ports.instr := congrArg decode sameRequest
  exact ⟨offeredAtEnd, sameInstr, fun ready => sameInstr ▸ step_of_ready ready offeredAtEnd⟩

end Sys2Proof.Machine

/-! A response on its way to the host: it is held until it is taken (spec/43_transactions.md R172), and from ACCEPT to CONSUME no
other takes its place (R173). -/

namespace Sys2Proof.Machine

open Sys2Proof

/-- The block's own state with the schedule moved on by `k` steps: what `k` waiting steps leave. -/
def State.advanceBy (s : State) (k : Nat) : State := { s with inputs := s.inputs.drop k }

theorem advanceBy_inputs (s : State) (k : Nat) : (s.advanceBy k).inputs = s.inputs.drop k := rfl

/-- Moving the schedule on once more. -/
theorem advance_advanceBy (s : State) (k : Nat) : (s.advanceBy k).advance = s.advanceBy (k + 1) := by
  simp only [State.advance, State.advanceBy, List.tail_drop]

/-- An ALT_STEP does not see the schedule. -/
theorem altStep_advanceBy (s : State) (k : Nat) : altStep (s.advanceBy k) = (altStep s).advanceBy k := by
  by_cases done : s.pceX = 0
  · rw [altStep_of_zero done, altStep_of_zero (s := s.advanceBy k) done]
    rfl
  · rw [altStep_of_ne_zero done, altStep_of_ne_zero (s := s.advanceBy k) done]
    rfl

/-- The ports of a state whose schedule has moved on by `k < n` steps are as the first `n` entries are, or drive nothing. -/
theorem advanceBy_ports {P : Inputs → Prop} {s : State} {n k : Nat} (driven : ∀ p ∈ s.inputs.take n, P p)
    (undriven : P Inputs.quiet) (early : k < n) : P (s.advanceBy k).ports := by
  rw [State.ports, advanceBy_inputs, List.headD_eq_head?_getD, List.head?_drop]
  cases sampled : s.inputs[k]? with
  | none => exact undriven
  | some p => exact driven p (List.mem_of_getElem? ((List.getElem?_take_of_lt early).trans sampled))

/-- While the host does not take it, the response and all else stay as they are (R172). -/
theorem run_untaken {s : State} {n : Nat} (inResp : s.phase = .resp)
    (untaken : ∀ p ∈ s.inputs.take n, p.rst = false ∧ p.rspReady = false) {k : Nat} (within : k ≤ n) :
    run k s = .next (s.advanceBy k) := by
  induction k with
  | zero => rfl
  | succ k ih =>
    obtain ⟨released, notTaken⟩ := advanceBy_ports untaken ⟨rfl, rfl⟩ within
    rw [run_succ_of_run (ih (Nat.le_of_succ_le within)), step_of_untaken released inResp notTaken, advance_advanceBy]

/-- Settles O34: CONSUME as an equation, and the wait before it. -/
theorem responseHeldUntilTaken : Obligations.ResponseHeldUntilTaken := by
  refine ⟨fun s inResp released taken => step_of_taken released inResp taken, fun k s inResp untaken => ?_⟩
  have held : rspPort (s.advanceBy k) = some { err := s.rspErrQ, result := s.rspResultQ } :=
    if_pos (beq_iff_eq.mpr inResp)
  exact ⟨_, run_untaken inResp untaken (Nat.le_refl k), held, rfl, rfl⟩

/-- Whether PARITY_ALT or not, an accepted operation is on its way to its response (R173). -/
theorem accepted_phase_inFlight (s : State) (i : Instr) :
    (s.accepted i).phase = .altLoop ∨ (s.accepted i).phase = .resp := by
  rcases parityAlt_or_ne i with ⟨x, rfl⟩ | notAlt
  · exact .inl rfl
  · exact .inr (accepted_phase_of_ne_parityAlt s notAlt)

/-- An ALT_STEP stays in the loop or completes. -/
theorem altStep_phase_inFlight {s : State} (inLoop : s.phase = .altLoop) :
    (altStep s).phase = .altLoop ∨ (altStep s).phase = .resp := by
  rw [altStep_phase, inLoop]
  split <;> simp

/-- Settles O35: the effect of ACCEPT, and the step of each of the two phases that follow it. -/
theorem inFlightUntilConsumed : Obligations.InFlightUntilConsumed := by
  refine ⟨fun s t i enabled stepped => ?_, fun s t inFlight released stepped => ⟨fun p => ?_, ?_⟩⟩
  · cases enabled ▸ step_effect stepped
    exact ⟨accepted_phase_inFlight _ i, accepted_received _ i⟩
  · rcases inFlight with phase | phase <;> simp [reqReady, phase]
  · rcases inFlight with inLoop | inResp
    · have enabled : enabledEvent s.ports s = .altStep := (altStepEffect.1 _ s).mpr ⟨released, inLoop⟩
      cases (step_of_altLoop released inLoop).symm.trans stepped
      exact ⟨fun consumes => absurd (enabled.symm.trans consumes) nofun, fun _ =>
        ⟨altStep_phase_inFlight inLoop, altStep_received _, fun inResp => absurd (inLoop.symm.trans inResp) nofun⟩⟩
    · cases taken : s.ports.rspReady with
      | true =>
        have enabled : enabledEvent s.ports s = .consume := by simp [enabledEvent, released, inResp, taken]
        cases (step_of_taken released inResp taken).symm.trans stepped
        exact ⟨fun _ => ⟨rfl, rfl⟩, fun notConsume => absurd enabled notConsume⟩
      | false =>
        have enabled : enabledEvent s.ports s = .wait := by simp [enabledEvent, released, inResp, taken]
        cases (step_of_untaken released inResp taken).symm.trans stepped
        exact ⟨fun consumes => absurd (enabled.symm.trans consumes) nofun, fun _ =>
          ⟨.inr inResp, rfl, fun _ => ⟨inResp, rfl, rfl⟩⟩⟩

end Sys2Proof.Machine

/-! A transaction as a run: the loop of PARITY_ALT under any behaviour of the host (spec/43_transactions.md R177), and the answer that
the request alone determines (R180). -/

namespace Sys2Proof.Machine

open Sys2Proof

/-- What ALT_STEP leaves alone, any number of ALT_STEPs leave alone. -/
theorem iterate_altStep_keeps {α : Type} {field : State → α} (kept : ∀ s, field (altStep s) = field s) (j : Nat) (s : State) :
    field (altStep^[j] s) = field s := by
  induction j with
  | zero => rfl
  | succ j ih => rw [Function.iterate_succ_apply', kept, ih]

/-- A loop that no reset interrupts takes its ALT_STEPs one after another, whatever the host does (R177). -/
theorem run_altLoop {s : State} (inLoop : s.phase = .altLoop)
    (released : ∀ p ∈ s.inputs.take (popcount s.pceX + 1), p.rst = false) {j : Nat} (within : j ≤ popcount s.pceX + 1) :
    run j s = .next ((altStep^[j] s).advanceBy j) := by
  induction j with
  | zero => rfl
  | succ j ih =>
    have stillInLoop := (iterate_altStep_loop inLoop (Nat.le_of_lt_succ within)).1
    have spent : ((altStep^[j] s).advanceBy j).inputs = s.inputs.drop j := by
      rw [advanceBy_inputs, iterate_altStep_keeps altStep_inputs]
    have noReset := ports_rst_of_inputs_drop released within spent
    rw [run_succ_of_run (ih (Nat.le_of_succ_le within)), step_of_altLoop noReset stillInLoop, advance_advanceBy,
      altStep_advanceBy, Function.iterate_succ_apply']

/-- From `s` to `t` the response `r` has been put on the port, and no other has been delivered; ROM and `fault` are as before. -/
structure State.Answered (s : State) (r : Response) (t : State) : Prop where
  phase : t.phase = .resp
  response : Response.mk t.rspErrQ t.rspResultQ = r
  received : t.received = s.received
  fault : t.fault = s.fault
  config : t.config = s.config
  epoch : t.epoch = s.epoch
  rom : t.rom = s.rom

namespace State.Answered

variable {s t : State} {r : Response}

theorem advanceBy (answered : s.Answered r t) (k : Nat) : s.Answered r (t.advanceBy k) := { answered with }

theorem romRead (answered : s.Answered r t) (a : Chunk) : Machine.romRead t a = Machine.romRead s a :=
  romRead_congr answered.config answered.epoch answered.rom a

/-- CONSUME delivers the answer. -/
theorem consume_received (answered : s.Answered r t) : t.consume.received = s.received ++ [r] := by
  rw [Machine.consume_received, answered.received, answered.response]

end State.Answered

/-- The loop ends with the parity of what was left, on top of the accumulator (spec/41_bitclear.md R125). -/
theorem iterate_altStep_answered {s : State} (inLoop : s.phase = .altLoop) :
    s.Answered { err := 0, result := zext16 (s.pceAcc ^^^ parity s.pceX) } (altStep^[popcount s.pceX + 1] s) where
  phase := by rw [iterate_altStep_completes inLoop, respond_phase]
  response := by rw [iterate_altStep_completes inLoop, respond_rspErrQ, respond_rspResultQ, iterate_altStep_acc inLoop]
  received := iterate_altStep_keeps altStep_received _ s
  fault := iterate_altStep_keeps altStep_fault _ s
  config := iterate_altStep_keeps altStep_config _ s
  epoch := iterate_altStep_keeps altStep_epoch _ s
  rom := iterate_altStep_keeps altStep_rom _ s

/-- An uninterrupted loop reaches its response in `popcount(pce_x) + 1` steps. -/
theorem run_altLoop_answers {s : State} (inLoop : s.phase = .altLoop)
    (released : ∀ p ∈ s.inputs.take (popcount s.pceX + 1), p.rst = false) :
    ∃ t, run (popcount s.pceX + 1) s = .next t ∧
      s.Answered { err := 0, result := zext16 (s.pceAcc ^^^ parity s.pceX) } t ∧
      t.inputs = s.inputs.drop (popcount s.pceX + 1) := by
  refine ⟨_, run_altLoop inLoop released (Nat.le_refl _), (iterate_altStep_answered inLoop).advanceBy _, ?_⟩
  rw [advanceBy_inputs, iterate_altStep_keeps altStep_inputs]

/-- Settles O24: the loop's ALT_STEPs in a row, and the invariant of R125 at their end. -/
theorem loopEndsWithParity : Obligations.LoopEndsWithParity := by
  intro s inLoop released
  obtain ⟨t, ran, answered, spent⟩ := run_altLoop_answers inLoop released
  obtain ⟨noError, result⟩ := Response.mk.inj answered.response
  exact ⟨t, ran, answered.phase, noError, result, answered.received, answered.fault, answered.rom, spent⟩

/-- Two runs one after the other. -/
theorem run_add_of_run {m : Nat} {s t : State} (n : Nat) (ran : run m s = .next t) : run (m + n) s = run n t := by
  induction m generalizing s with
  | zero =>
    cases ran
    rw [Nat.zero_add]
  | succ m ih =>
    obtain ⟨u, stepped, ranOn⟩ := exists_step_of_run_succ ran
    rw [Nat.succ_add, run_succ_of_step stepped, ih ranOn]

/-- An answer on the port stays there while the host does not take it (R172). -/
theorem run_keeps_answer {s t : State} {r : Response} {m n : Nat} (ran : run m s = .next t) (answered : s.Answered r t)
    (spent : t.inputs = s.inputs.drop m) (untaken : ∀ p ∈ s.inputs.take (m + n), p.rst = false ∧ p.rspReady = false) :
    ∃ u, run (m + n) s = .next u ∧ s.Answered r u ∧ u.inputs = s.inputs.drop (m + n) := by
  have untakenThen : ∀ p ∈ t.inputs.take n, p.rst = false ∧ p.rspReady = false := fun p member => by
    rw [spent, List.take_drop] at member
    exact untaken p (List.mem_of_mem_drop member)
  refine ⟨t.advanceBy n, (run_add_of_run n ran).trans (run_untaken answered.phase untakenThen (Nat.le_refl n)),
    answered.advanceBy n, ?_⟩
  rw [advanceBy_inputs, spent, List.drop_drop]

/-- Once accepted over a complete table, an operation is answered by the block's own steps, and the answer is held for as long as
the host waits without a reset. -/
theorem run_accepted_answers {s : State} {i : Instr} {n : Nat} (complete : s.RomComplete) (enough : blockSteps i ≤ n)
    (untaken : ∀ p ∈ s.inputs.take n, p.rst = false ∧ p.rspReady = false) :
    ∃ t, run n (s.accepted i) = .next t ∧ (s.accepted i).Answered (answer i) t ∧ t.inputs = s.inputs.drop n := by
  rcases parityAlt_or_ne i with ⟨x, rfl⟩ | notAlt
  · obtain ⟨m, rfl⟩ := Nat.exists_eq_add_of_le enough
    have released : ∀ p ∈ (s.startPce x).inputs.take (popcount x + 1), p.rst = false := fun p member =>
      (untaken p (List.take_subset_take_left _ (Nat.le_add_right _ m) member)).1
    obtain ⟨t, ran, answered, spent⟩ := run_altLoop_answers (s := s.startPce x) rfl released
    have fromZero : (s.startPce x).pceAcc ^^^ parity (s.startPce x).pceX = parity x := BitVec.zero_xor
    rw [fromZero] at answered
    exact run_keeps_answer ran answered spent untaken
  · have answered : (s.accepted i).Answered (answer i) (s.accepted i) :=
      ⟨accepted_phase_of_ne_parityAlt s notAlt, accepted_response_of_ne_parityAlt complete notAlt, rfl, rfl, rfl, rfl, rfl⟩
    rw [← accepted_inputs s i] at untaken ⊢
    rw [← Nat.zero_add n] at untaken ⊢
    exact run_keeps_answer rfl answered rfl untaken

/-- Settles O36: the ACCEPT, the host's wait, and the CONSUME. -/
theorem transactionAnswered : Obligations.TransactionAnswered := by
  intro s i offer take waits rest h inIdle scheduled released offered sampled untaken enough takeReleased taken
  have complete : s.advance.RomComplete := h.advance.built (by simp [inIdle])
  have offerPorts : s.ports = offer := by rw [State.ports, scheduled, List.headD_cons]
  have afterOffer : s.advance.inputs = waits ++ take :: rest := by rw [advance_inputs, scheduled, List.tail_cons]
  have accepts : step s = .next (s.advance.accepted i) := by
    rw [← sampled, ← offerPorts]
    rw [← offerPorts] at released offered
    exact step_of_offered released inIdle offered
  obtain ⟨u, ran, answered, spent⟩ := run_accepted_answers complete enough (by rwa [afterOffer, List.take_left])
  rw [afterOffer, List.drop_left] at spent
  have takePorts : u.ports = take := by rw [State.ports, spent, List.headD_cons]
  rw [← takePorts] at takeReleased taken
  have ranToAnswer : run (waits.length + 1) s = .next u := (run_succ_of_step accepts _).trans ran
  refine ⟨u.advance.consume, ?_, rfl, ?_, ?_, ?_, ?_, fun a => ?_⟩
  · rw [run_succ_of_run ranToAnswer, step_of_taken takeReleased answered.phase taken]
  · exact (answered.consume_received).trans (by simp)
  · exact answered.fault.trans (by simp)
  · simp [spent]
  · exact answered.config.trans (by simp)
  · exact (answered.romRead a).trans (by simp)

end Sys2Proof.Machine

/-! A script of transactions (spec/30_encoding.md R76) and its observation (spec/43_transactions.md R178). -/

namespace Sys2Proof.Machine

open Sys2Proof

/-- One step under the port levels that the host gives it keeps the invariant, and leaves nothing scheduled. -/
theorem State.Inv.step_withPorts {s t : State} {p : Inputs} (h : s.Inv) (stepped : step (s.withPorts p) = .next t) :
    t.Inv ∧ t.inputs = [] :=
  ⟨invariantKeptByEveryStep _ t (h.withPorts p) stepped, step_inputs stepped⟩

/-- The host's wait for the response keeps the invariant, and leaves nothing scheduled. -/
theorem State.Inv.awaitConsume {bound : Nat} {s t : State} (h : s.Inv) (ended : s.inputs = [])
    (ran : awaitConsume bound s = .next t) : t.Inv ∧ t.inputs = [] := by
  induction bound generalizing s with
  | zero =>
    cases ran
    exact ⟨h, ended⟩
  | succ k ih =>
    rw [Machine.awaitConsume] at ran
    cases stepped : step (s.withPorts Inputs.taking) with
    | next u =>
      obtain ⟨hu, endedThen⟩ := h.step_withPorts stepped
      simp only [stepped] at ran
      split_ifs at ran
      · cases ran
        exact ⟨hu, endedThen⟩
      · exact ih hu endedThen ran
    | fault r => simp [stepped] at ran
    | refused r => simp [stepped] at ran

/-- The block's own steps of a transaction are at most 65 (spec/41_bitclear.md R124). -/
theorem blockSteps_le (i : Instr) : blockSteps i ≤ 65 := by
  cases i with
  | parityAlt x => exact Nat.succ_le_succ (popcount_le x)
  | parity | parityLookup | reserved => exact Nat.zero_le 65

/-- After a transaction line from an idle block, the next line finds an idle block with the invariant again. -/
theorem runLine_of_idle {s : State} {bound : Nat} (i : Instr) (h : s.Inv) (inIdle : s.phase = .idle) (enough : 66 ≤ bound) :
    ∃ t, runLine bound (.transaction i) s = .next t ∧ t.Inv ∧ t.runEnded ∧
      t.received = s.received ++ [answer i] ∧ t.fault = (s.fault || isReserved i) := by
  have short := blockSteps_le i
  have noBuild : buildStepsLeft s = 0 := by simp [buildStepsLeft, inIdle]
  obtain ⟨t, carriedOut, idleAgain, received, fault⟩ :=
    scriptLineIsOneTransaction s i bound h (.inl inIdle) (by omega) (by omega)
  obtain ⟨k, rfl⟩ := Nat.exists_eq_add_of_le' (show 1 ≤ bound by omega)
  have accepted := awaitAccept_of_idle k (encode i) inIdle
  have taken := carriedOut
  simp only [runLine, accepted] at taken
  obtain ⟨ht, ended⟩ := ((h.withPorts _).advance.accepted inIdle _).awaitConsume (accepted_inputs _ _) taken
  exact ⟨t, carriedOut, ht, ⟨ended, idleAgain⟩, received, fault⟩

/-- Settles O39, by induction on the script. -/
theorem scriptObservation : Obligations.ScriptObservation := by
  intro s is bound h inIdle ended enough
  induction is generalizing s with
  | nil => exact ⟨s, rfl, ⟨ended, inIdle⟩, by simp [State.observation]⟩
  | cons i is ih =>
    obtain ⟨u, carriedOut, hu, ⟨endedThen, idleAgain⟩, received, fault⟩ := runLine_of_idle i h inIdle enough
    obtain ⟨t, ran, endedAtLast, observed⟩ := ih u hu idleAgain endedThen
    refine ⟨t, ?_, endedAtLast, ?_⟩
    · rw [List.map_cons, runScript, carriedOut]
      exact ran
    · rw [observed, received, fault]
      simp [Bool.or_assoc]

end Sys2Proof.Machine

/-! No operation fails (spec/60_exceptions.md R200), and the one error is an ordinary response (R202): there is no trap entry and no
return from one (R205, R206). -/

namespace Sys2Proof.Machine

open Sys2Proof

/-- Settles O11: a request that transfers finds the block idle, where every operation takes effect, and every other step is the
effect of its event. -/
theorem stepNeverStops : Obligations.StepNeverStops := by
  intro s
  by_cases transfers : ∃ i, enabledEvent s.ports s = .accept i
  case pos =>
    obtain ⟨i, enabled⟩ := transfers
    have inIdle : s.advance.phase = .idle := idle_of_enabledEvent_accept enabled
    exact ⟨s.advance.accepted i, (step_of_accept enabled).trans (exec_of_idle i inIdle)⟩
  case neg => exact ⟨_, step_of_internal (not_exists.mp transfers)⟩

/-- In IDLE, the reserved op raises ReservedOp, whatever its operand (R202, spec/30_encoding.md R74). -/
theorem exec_reserved_of_idle {s : State} (x : Word) (inIdle : s.phase = .idle) :
    exec (.reserved x) s = .next s.raiseReservedOp := by
  rw [exec_of_idle _ inIdle, State.accepted]

/-- Settles O15: the error response is written with the flag, and CONSUME delivers it from the response registers. -/
theorem reservedAnswersError : Obligations.ReservedAnswersError := by
  intro x s inIdle
  have written : s.raiseReservedOp = { s with rspResultQ := 0, rspErrQ := 1, phase := .resp, fault := true } := rfl
  have delivered : s.raiseReservedOp.consume.received = s.received ++ [{ err := 1, result := 0 }] := by simp
  exact ⟨s.raiseReservedOp, exec_reserved_of_idle x inIdle, written, consume_phase _, delivered⟩

end Sys2Proof.Machine

/-! RESET (spec/70_reset_and_hazards.md R220 to R224): what it leaves in each mode, that it can be repeated, and how a block gets
from it to ready. -/

namespace Sys2Proof.Machine

open Sys2Proof

section AfterReset

variable {s : State}

/-- RESET makes a block with a mask ROM idle, and no other (R221). -/
theorem resetStep_phase_eq_idle_iff : s.resetStep.phase = .idle ↔ s.config.romPreloaded = true := by simp

/-- RESET starts the build in build mode, and only there (R222). -/
theorem resetStep_phase_eq_build_iff : s.resetStep.phase = .build ↔ s.config.romPreloaded = false := by simp

/-- RESET ends a loop that is in flight. -/
theorem resetStep_phase_ne_altLoop (s : State) : s.resetStep.phase ≠ .altLoop := by
  rw [resetStep_phase]
  split <;> exact nofun

/-- RESET leaves no response on the port. -/
theorem resetStep_phase_ne_resp (s : State) : s.resetStep.phase ≠ .resp := by
  rw [resetStep_phase]
  split <;> exact nofun

/-- A mask ROM reads as the table right after RESET. -/
theorem resetStep_romComplete (preloaded : s.config.romPreloaded = true) : s.resetStep.RomComplete :=
  romRead_preloaded ((congrArg Config.romPreloaded (resetStep_config s)).trans preloaded)

end AfterReset

section OutputsByPhase

variable {s : State}

/-- `req_ready = 0` in BUILD, whatever the ports (spec/10_state.md R25). -/
theorem reqReady_of_build (inBuild : s.phase = .build) (p : Inputs) : reqReady p s = false := by simp [reqReady, inBuild]

theorem initDone_of_build (inBuild : s.phase = .build) : initDone s = false := by simp [initDone, inBuild]

theorem initDone_of_idle (inIdle : s.phase = .idle) : initDone s = true := by simp [initDone, inIdle]

end OutputsByPhase

/-- Settles O41, from the phase that RESET enters in each mode. -/
theorem resetLeaves : Obligations.ResetLeaves := by
  intro s asserted
  refine ⟨_, step_of_reset asserted, fun preloaded => ?_, fun buildMode => ?_,
    beq_eq_false_iff_ne.mpr (resetStep_phase_ne_resp _), resetStep_fault _, resetStep_received _, resetStep_config _⟩
  · have inIdle : s.advance.resetStep.phase = .idle := resetStep_phase_eq_idle_iff.mpr preloaded
    exact ⟨inIdle, fun p released => (reqReady_eq_true_iff p _).mpr ⟨inIdle, released⟩, initDone_of_idle inIdle,
      resetStep_romComplete preloaded⟩
  · have inBuild : s.advance.resetStep.phase = .build := resetStep_phase_eq_build_iff.mpr buildMode
    exact ⟨inBuild, resetStep_buildIdx_of_buildMode buildMode, reqReady_of_build inBuild,
      initDone_of_build inBuild⟩

/-- A second RESET gives the data registers and an unbuilt ROM other free values, and leaves all that holds a value (R220). -/
theorem resetStep_resetStep_liveEq (s : State) : s.resetStep.resetStep.LiveEq s.resetStep where
  config := resetStep_config _
  phase := by rw [resetStep_phase s.resetStep, resetStep_phase s, resetStep_config]
  fault := resetStep_fault _
  inputs := resetStep_inputs _
  received := resetStep_received _
  pce inLoop := absurd inLoop (resetStep_phase_ne_altLoop _)
  response inResp := absurd inResp (resetStep_phase_ne_resp _)
  buildIdx inBuild := by
    have buildMode : s.resetStep.config.romPreloaded = false := resetStep_phase_eq_build_iff.mp inBuild
    rw [resetStep_buildIdx_of_buildMode buildMode, resetStep_buildIdx_of_buildMode (resetStep_config s ▸ buildMode)]
  building inBuild a below := by
    rw [resetStep_buildIdx_of_buildMode (resetStep_phase_eq_build_iff.mp inBuild)] at below
    exact absurd below (Nat.not_lt_zero _)
  built notBuild a := by
    have preloaded : s.resetStep.config.romPreloaded = true := by simpa using notBuild
    exact romRead_eq_of_preloaded (resetStep_config _) preloaded a

/-- Settles O42: `rst` is looked at before the phase. -/
theorem resetHasPrecedence : Obligations.ResetHasPrecedence := by
  refine ⟨fun s asserted => ⟨?_, step_of_reset asserted, ?_⟩, resetStep_resetStep_liveEq⟩
  · rw [enabledEvent, if_pos asserted]
  · simp [reqReady, asserted]

/-- Settles O43: a mask ROM is complete at once, and otherwise RESET starts an uninterrupted build. -/
theorem resetMakesReady : Obligations.ResetMakesReady := by
  intro s asserted n released
  have resets := step_of_reset asserted
  cases mode : s.config.romPreloaded with
  | true =>
    have oneStep : n = 0 + 1 := if_pos mode
    rw [oneStep, run_succ_of_step resets]
    exact ⟨_, rfl, resetStep_phase_eq_idle_iff.mpr mode, resetStep_romComplete mode, resetStep_received _, resetStep_fault _⟩
  | false =>
    have buildToo : n = 65536 + 1 := if_neg (Bool.eq_false_iff.mp mode)
    rw [buildToo, run_succ_of_step resets]
    obtain ⟨t, ran, built⟩ := run_builtTo (s := s.advance.resetStep) (k := 65536) (by simpa using mode)
      (resetStep_phase_eq_build_iff.mpr mode) (resetStep_buildIdx_of_buildMode mode) (by simpa using released) (Nat.le_refl _)
    exact ⟨t, ran, built.phase, built.romComplete, built.received.trans (resetStep_received _),
      built.fault.trans (resetStep_fault _)⟩

end Sys2Proof.Machine

/-! The steps of a transaction whose host is ready at once (spec/70_reset_and_hazards.md R232). -/

namespace Sys2Proof.Machine

open Sys2Proof

/-- The request that the schedule offers next is accepted by an idle block. -/
theorem step_of_scheduled_offer {s : State} {offer : Inputs} {later : List Inputs} (inIdle : s.phase = .idle)
    (scheduled : s.inputs = offer :: later) (released : offer.rst = false) (offered : offer.reqValid = true) :
    step s = .next (s.advance.accepted offer.instr) := by
  have ports : s.ports = offer := by rw [State.ports, scheduled, List.headD_cons]
  subst ports
  exact step_of_offered released inIdle offered

/-- Only PARITY_ALT takes steps of the block's own. -/
theorem blockSteps_of_ne_parityAlt {i : Instr} (notAlt : ∀ x, i ≠ .parityAlt x) : blockSteps i = 0 := by
  cases i with
  | parityAlt x => exact absurd rfl (notAlt x)
  | parity | parityLookup | reserved => rfl

section BlockSteps

variable {s : State} {i : Instr} (released : ∀ p ∈ s.inputs.take (blockSteps i), p.rst = false)
include released

/-- During the block's own steps no response is received, whatever the host does. -/
theorem run_accepted_received {k : Nat} (within : k ≤ blockSteps i) :
    ∃ t, run k (s.accepted i) = .next t ∧ t.received = s.received := by
  rcases parityAlt_or_ne i with ⟨x, rfl⟩ | notAlt
  · refine ⟨_, run_altLoop (s := s.startPce x) rfl released within, ?_⟩
    exact iterate_altStep_keeps altStep_received k (s.startPce x)
  · have noSteps : blockSteps i = 0 := blockSteps_of_ne_parityAlt notAlt
    obtain rfl : k = 0 := by omega
    exact ⟨_, rfl, accepted_received s i⟩

/-- Over a complete table the answer is on the port right after the block's own steps, whatever the host does (R180). -/
theorem run_blockSteps_answers (complete : s.RomComplete) :
    ∃ t, run (blockSteps i) (s.accepted i) = .next t ∧ (s.accepted i).Answered (answer i) t ∧
      t.inputs = s.inputs.drop (blockSteps i) := by
  rcases parityAlt_or_ne i with ⟨x, rfl⟩ | notAlt
  · obtain ⟨t, ran, answered, spent⟩ := run_altLoop_answers (s := s.startPce x) rfl released
    have fromZero : (s.startPce x).pceAcc ^^^ parity (s.startPce x).pceX = parity x := BitVec.zero_xor
    rw [fromZero] at answered
    exact ⟨t, ran, answered, spent⟩
  · rw [blockSteps_of_ne_parityAlt notAlt]
    exact ⟨_, rfl, ⟨accepted_phase_of_ne_parityAlt s notAlt, accepted_response_of_ne_parityAlt complete notAlt, rfl, rfl, rfl,
      rfl, rfl⟩, accepted_inputs s i⟩

end BlockSteps

/-- Settles O37: the ACCEPT, the block's own steps, and the CONSUME in the first step in which `rsp_valid = 1`. -/
theorem readyHostStepCounts : Obligations.ReadyHostStepCounts := by
  intro s i offer ready rest h inIdle scheduled offerReleased offered sampled driven length
  obtain rfl | ⟨during, take, rfl⟩ := List.eq_nil_or_concat ready
  · simp at length
  have lasts : during.length = blockSteps i := by simpa using length
  have accepts := step_of_scheduled_offer inIdle scheduled offerReleased offered
  rw [sampled] at accepts
  have afterOffer : s.advance.inputs = during ++ take :: rest := by simp [scheduled]
  have released : ∀ p ∈ s.advance.inputs.take (blockSteps i), p.rst = false := by
    rw [afterOffer, ← lasts, List.take_left]
    exact fun p member => (driven p (by simp [member])).1
  constructor
  · rintro (_ | k) early
    · exact ⟨s, rfl, rfl⟩
    · rw [run_succ_of_step accepts]
      exact run_accepted_received released (by omega)
  · obtain ⟨u, ran, answered, spent⟩ := run_blockSteps_answers released (h.advance.built (by simp [inIdle]))
    rw [afterOffer, ← lasts, List.drop_left] at spent
    have takePorts : u.ports = take := by rw [State.ports, spent, List.headD_cons]
    obtain ⟨takeReleased, taken⟩ := driven take (by simp)
    rw [← takePorts] at takeReleased taken
    refine ⟨u.advance.consume, ?_, ?_, rfl, by simp [spent]⟩
    · rw [run_succ_of_step accepts, run_succ_of_run ran, step_of_taken takeReleased answered.phase taken]
    · exact answered.consume_received.trans (by simp)

end Sys2Proof.Machine
